-- ==== Sys2Proof/Word.lean ====
section
/-! DEFINITION. The widths the spec uses: 4, 8 and 96 bits (00_scope.md R11, R12). -/

namespace Sys2Proof

/-- A byte: 8 bits (R11). -/
abbrev Byte := BitVec 8

/-- A nibble: 4 bits (R11). -/
abbrev Nibble := BitVec 4

/-- A request word: 96 bits (30_encoding.md R100). -/
abbrev Word := BitVec 96

end Sys2Proof
end

