-- ==== Sys2Proof/Syntax.lean ====
section
/-! DEFINITION. The instructions: one constructor per row of spec/opcode_table.json. The first 19 are the block's
operations (30_encoding.md R105), the last eight the controller's command bytes (R120, format `LCDCMD`). -/

namespace Sys2Proof

/-- Operands are what 30_encoding.md R102 (requests) and the fields of the table's LCDCMD rows say they are. -/
inductive Instr where
  | init (cols rows : Byte) (font : Nibble) (bl0 : Bool)
  | close
  | clear
  | home
  | setCursor (row col : Byte)
  | writeRaw (code : Byte)
  | uploadCustomChar (loc : Byte) (pattern : List Byte)
  | backlightOn
  | backlightOff
  | backlightToggle
  | displayOn
  | displayOff
  | displayToggle
  | cursorOn
  | cursorOff
  | cursorToggle
  | blinkOn
  | blinkOff
  | blinkToggle
  | lcdClear
  | lcdHome (ignored : BitVec 1)
  | lcdEntryMode (increment shift : Bool)
  | lcdDisplayControl (display cursor blink : Bool)
  | lcdShift (unused : Nibble)
  | lcdFunctionSet (eightBit twoLine font5x10 : Bool) (ignored : BitVec 2)
  | lcdSetCgramAddr (glyph glyphRow : BitVec 3)
  | lcdSetDdramAddr (address : BitVec 7)
deriving DecidableEq, Repr

/-- A request word's instruction (true) or a command byte's (false). -/
def Instr.isRequest : Instr → Bool
  | .init .. | .close | .clear | .home | .setCursor .. | .writeRaw _ | .uploadCustomChar .. => true
  | .backlightOn | .backlightOff | .backlightToggle | .displayOn | .displayOff | .displayToggle => true
  | .cursorOn | .cursorOff | .cursorToggle | .blinkOn | .blinkOff | .blinkToggle => true
  | .lcdClear | .lcdHome _ | .lcdEntryMode .. | .lcdDisplayControl .. | .lcdShift _ => false
  | .lcdFunctionSet .. | .lcdSetCgramAddr .. | .lcdSetDdramAddr _ => false

/-- The operation is INIT. -/
def Instr.isInit : Instr → Bool
  | .init .. => true
  | .close | .clear | .home | .setCursor .. | .writeRaw _ | .uploadCustomChar .. => false
  | .backlightOn | .backlightOff | .backlightToggle | .displayOn | .displayOff | .displayToggle => false
  | .cursorOn | .cursorOff | .cursorToggle | .blinkOn | .blinkOff | .blinkToggle => false
  | .lcdClear | .lcdHome _ | .lcdEntryMode .. | .lcdDisplayControl .. | .lcdShift _ => false
  | .lcdFunctionSet .. | .lcdSetCgramAddr .. | .lcdSetDdramAddr _ => false

end Sys2Proof
end

