-- ==== Sys2Proof/Config.lean ====
section
/-! DEFINITION. What an implementation fixes (the parameter record of 00_scope.md R9, its defaults, and the constants
LCDSPEC itself fixes) and the free values (opaque: nothing can be proved of them but their type). -/

namespace Sys2Proof

/-- What a backlight operation writes: 45_toggles.md R265, decision D13. -/
inductive BlApply where
  | resendDc
  | bareWrite
  | none
deriving DecidableEq, Repr

/-- The parameters of R9 that LCDSPEC leaves open. Delays are in microseconds. `busId` and `periphAddr` are straps of
the transport: no operation reads them (10_state.md R47). -/
structure Params where
  rsMask : Byte
  enMask : Byte
  blMask : Byte
  cmdClear : Byte
  cmdHome : Byte
  cmdEntry : Byte
  entryInc : Byte
  entryShift : Byte
  cmdDispctl : Byte
  dcDisplay : Byte
  dcCursor : Byte
  dcBlink : Byte
  cmdFuncset : Byte
  fs8bit : Byte
  fs4bit : Byte
  fs2line : Byte
  fs1line : Byte
  fs5x10 : Byte
  fs5x8 : Byte
  tPowerOn : Nat
  tBoot1 : Nat
  tBoot2 : Nat
  tSettle : Nat
  tClear : Nat
  tHome : Nat
  blApply : BlApply
  busId : Nat
  periphAddr : Nat
deriving DecidableEq, Repr

/-- The defaults of R9 (decisions D5, D6, D7, D13). DESIGN CHOICE (unsafe, log 7): `busId` and `periphAddr`, which the
spec leaves OPEN, are 0 here; nothing reads them. -/
def Params.default : Params where
  rsMask := 0x01
  enMask := 0x04
  blMask := 0x08
  cmdClear := 0x01
  cmdHome := 0x02
  cmdEntry := 0x04
  entryInc := 0x02
  entryShift := 0x01
  cmdDispctl := 0x08
  dcDisplay := 0x04
  dcCursor := 0x02
  dcBlink := 0x01
  cmdFuncset := 0x20
  fs8bit := 0x10
  fs4bit := 0x00
  fs2line := 0x08
  fs1line := 0x00
  fs5x10 := 0x04
  fs5x8 := 0x00
  tPowerOn := 50000
  tBoot1 := 5000
  tBoot2 := 100
  tSettle := 50
  tClear := 2000
  tHome := 2000
  blApply := .resendDc
  busId := 0
  periphAddr := 0

/-- The command literals are the defaults of R9 (decision D6): the premise of every claim about what the controller,
which decodes by the fixed layout of 30_encoding.md R120, makes of the block's commands. -/
def Params.stdCommands (p : Params) : Bool :=
  p.cmdClear == 0x01 && p.cmdHome == 0x02 && p.cmdEntry == 0x04 && p.entryInc == 0x02 && p.cmdDispctl == 0x08 &&
  p.dcDisplay == 0x04 && p.dcCursor == 0x02 && p.dcBlink == 0x01 && p.cmdFuncset == 0x20 && p.fs4bit == 0x00 &&
  p.fs2line == 0x08 && p.fs1line == 0x00 && p.fs5x10 == 0x04 && p.fs5x8 == 0x00

/-- `ROW_BASE` of R9: the set-address command byte of column 0 of each row (20_memory.md R71). A row above 3 never
reaches it (42_screen_cursor.md R215 (b)); the last base stands for it. -/
def Config.rowBase (row : Byte) : Byte :=
  if row = 0 then 0x80 else if row = 1 then 0xC0 else if row = 2 then 0x94 else 0xD4

/-- `CMD_CGRAM` of R9. -/
def Config.cmdCgram : Byte := 0x40

/-- `NIB_BOOT8` of R9 (30_encoding.md R119). -/
def Config.nibBoot8 : Nibble := 0x3

/-- `NIB_TO4` of R9 (30_encoding.md R119). -/
def Config.nibTo4 : Nibble := 0x2

/-- `COLS_SET` of R9. -/
def Config.colsSet : List Byte := [16, 20]

/-- `ROWS_SET` of R9. -/
def Config.rowsSet : List Byte := [1, 2, 4]

/-! Free values (logs 8, 9, 11, 13, 16 to 19, 21). Each is applied to a counter of State, so that two draws need not agree. -/

/-- A free byte: a mirrored field while no handle exists (10_state.md R42). -/
opaque Config.freeByte : Nat → Byte

/-- A free bit. -/
opaque Config.freeBit : Nat → Bool

/-- A free display-control field (10_state.md R42). -/
opaque Config.freeDc : Nat → BitVec 3

/-- A free request latch (10_state.md R38, R50; 93_implementation_defined.md U2). -/
opaque Config.freeWord : Nat → Word

/-- What the status port shows of a mirrored byte while no handle exists (10_state.md R42). -/
opaque Config.statusByte : Nat → Byte

/-- What the status port shows of a mirrored bit while no handle exists (10_state.md R42). -/
opaque Config.statusBit : Nat → Bool

/-- What the status port shows of S.dc while no handle exists (10_state.md R42). -/
opaque Config.statusDc : Nat → BitVec 3

/-- The four data lines the expander does not drive, in 8-bit mode (40_lifecycle_init.md R155). -/
opaque Config.undrivenNibble : Nat → Nibble

/-- A free bit of the controller. -/
opaque Config.lcdBit : Nat → Bool

/-- A free display-control field of the controller. -/
opaque Config.lcdDc : Nat → BitVec 3

/-- A free DDRAM address of the controller (44_text_output.md R241). -/
opaque Config.ddramAddr : Nat → BitVec 7

/-- A free CGRAM address of the controller. -/
opaque Config.cgramAddr : Nat → BitVec 6

/-- A free display-shift position of the controller. -/
opaque Config.windowPos : Nat → BitVec 7

end Sys2Proof
end

