-- ==== Sys2Proof/WellFormed.lean ====
section
/-! DEFINITION. Well-formed instructions and well-formed parameter records (00_scope.md R10). -/

namespace Sys2Proof

/-- The types bound every operand but one: a glyph is "8 bytes" (30_encoding.md R102, 43_custom_char.md R230). -/
def Instr.wf : Instr → Bool
  | .uploadCustomChar _ pattern => pattern.length == 8
  | .init .. | .close | .clear | .home | .setCursor .. | .writeRaw _ => true
  | .backlightOn | .backlightOff | .backlightToggle | .displayOn | .displayOff | .displayToggle => true
  | .cursorOn | .cursorOff | .cursorToggle | .blinkOn | .blinkOff | .blinkToggle => true
  | .lcdClear | .lcdHome _ | .lcdEntryMode .. | .lcdDisplayControl .. | .lcdShift _ => true
  | .lcdFunctionSet .. | .lcdSetCgramAddr .. | .lcdSetDdramAddr _ => true

/-- A control mask is one bit of bits 3:0 (R10, 30_encoding.md R103). -/
def isControlBit (m : Byte) : Bool := m == 0x01 || m == 0x02 || m == 0x04 || m == 0x08

/-- R10: the three masks are control bits and pairwise distinct. -/
def Params.masksWf (p : Params) : Bool :=
  isControlBit p.rsMask && isControlBit p.enMask && isControlBit p.blMask &&
  p.rsMask != p.enMask && p.rsMask != p.blMask && p.enMask != p.blMask

/-- R10: every delay is at least its lower bound (the bounds of R9 and 70_reset_and_hazards.md R360, in microseconds;
T_HOME has none). R9 fixes T_BOOT1 and T_BOOT2 at their source's values, and 93_implementation_defined.md U13 does not list
them as open. -/
def Params.delaysWf (p : Params) : Bool :=
  decide (30000 ≤ p.tPowerOn) && decide (p.tBoot1 = 5000) && decide (p.tBoot2 = 100) &&
  decide (40 ≤ p.tSettle) && decide (2000 ≤ p.tClear)

/-- R10: `(CMD_FUNCSET | FS_4BIT)[7:4] = NIB_TO4` and `(CMD_FUNCSET | FS_8BIT)[7:4] = NIB_BOOT8`. -/
def Params.funcsetWf (p : Params) : Bool :=
  (p.cmdFuncset ||| p.fs4bit).extractLsb' 4 4 == Config.nibTo4 &&
  (p.cmdFuncset ||| p.fs8bit).extractLsb' 4 4 == Config.nibBoot8

/-- A well-formed parameter record (R10). -/
def Params.wf (p : Params) : Bool := p.masksWf && p.delaysWf && p.funcsetWf

end Sys2Proof
end

