-- ==== Sys2Proof/Decode.lean ====
section
/-! DEFINITION. Decoding request words (30_encoding.md R100 to R107) and command bytes (R120), total and rejecting by
name; and after it the encoder, written from the same rules. -/

namespace Sys2Proof

/-- What is handed to a decoder: a request word (to the block) or a command byte (to the controller). -/
inductive Code where
  | request (w : Word)
  | command (b : Byte)
deriving DecidableEq, Repr

/-- Why a decoder rejects. -/
inductive Reject where
  /-- `op` is none of the 19 opcodes (R107 (a)). -/
  | unknownOpcode
  /-- A reserved field of the format is not zero (R107 (b)). -/
  | reservedNotZero
  /-- "0x00 is no command" (R120). -/
  | noCommand
deriving DecidableEq, Repr

/-- `v[hi:lo]` for the request word's byte fields (R100): 8 bits from bit `lo`. -/
def Word.byteAt (w : Word) (lo : Nat) : Byte := w.extractLsb' lo 8

/-- R100, R76: `op = word[95:88]`. -/
def Word.op (w : Word) : Byte := Word.byteAt w 88
/-- R100, R76: `a = word[87:80]`. -/
def Word.a (w : Word) : Byte := Word.byteAt w 80
/-- R100, R76: `b = word[79:72]`. -/
def Word.b (w : Word) : Byte := Word.byteAt w 72
/-- R100, R76: `c = word[71:64]`. -/
def Word.c (w : Word) : Byte := Word.byteAt w 64
/-- R100, R76: `p = word[63:0]`. -/
def Word.p (w : Word) : BitVec 64 := w.extractLsb' 0 64

/-- R102: `pattern[i] = p[63 - 8*i : 56 - 8*i]`, `i = 0..7`. -/
def patternBytes (p : BitVec 64) : List Byte :=
  [p.extractLsb' 56 8, p.extractLsb' 48 8, p.extractLsb' 40 8, p.extractLsb' 32 8,
   p.extractLsb' 24 8, p.extractLsb' 16 8, p.extractLsb' 8 8, p.extractLsb' 0 8]

/-- Answer `i` when the format's reserved fields are zero (R107 (b)). -/
def ifReserved (zero : Bool) (i : Instr) : Except Reject Instr :=
  if zero then .ok i else .error .reservedNotZero

/-- Format `N` (R101): every field but `op` is zero. -/
def reservedN (w : Word) : Bool := Word.a w == 0 && Word.b w == 0 && Word.c w == 0 && Word.p w == 0

/-- Format `I` (R101): `c[3:1] = 0` and `p = 0`. -/
def reservedI (w : Word) : Bool := (Word.c w).extractLsb' 1 3 == 0 && Word.p w == 0

/-- Format `RC` (R101): `c = 0` and `p = 0`. -/
def reservedRC (w : Word) : Bool := Word.c w == 0 && Word.p w == 0

/-- Format `K` (R101): `a = b = 0` and `p = 0`. -/
def reservedK (w : Word) : Bool := Word.a w == 0 && Word.b w == 0 && Word.p w == 0

/-- Format `U` (R101): `b = c = 0`. -/
def reservedU (w : Word) : Bool := Word.b w == 0 && Word.c w == 0

/-- The request decoder: the opcode map of R105, the operands of R102, the reserved fields of R107. -/
def decodeRequest (w : Word) : Except Reject Instr :=
  match (Word.op w).toNat with
  | 0x01 => ifReserved (reservedI w)
      (.init (Word.a w) (Word.b w) ((Word.c w).extractLsb' 4 4) ((Word.c w).getLsbD 0))
  | 0x02 => ifReserved (reservedN w) .close
  | 0x10 => ifReserved (reservedN w) .clear
  | 0x11 => ifReserved (reservedN w) .home
  | 0x12 => ifReserved (reservedRC w) (.setCursor (Word.a w) (Word.b w))
  | 0x13 => ifReserved (reservedK w) (.writeRaw (Word.c w))
  | 0x14 => ifReserved (reservedU w) (.uploadCustomChar (Word.a w) (patternBytes (Word.p w)))
  | 0x20 => ifReserved (reservedN w) .backlightOn
  | 0x21 => ifReserved (reservedN w) .backlightOff
  | 0x22 => ifReserved (reservedN w) .backlightToggle
  | 0x24 => ifReserved (reservedN w) .displayOn
  | 0x25 => ifReserved (reservedN w) .displayOff
  | 0x26 => ifReserved (reservedN w) .displayToggle
  | 0x28 => ifReserved (reservedN w) .cursorOn
  | 0x29 => ifReserved (reservedN w) .cursorOff
  | 0x2A => ifReserved (reservedN w) .cursorToggle
  | 0x2C => ifReserved (reservedN w) .blinkOn
  | 0x2D => ifReserved (reservedN w) .blinkOff
  | 0x2E => ifReserved (reservedN w) .blinkToggle
  | _ => .error .unknownOpcode

/-- The controller's decoder: "the highest set bit names the command" (R120). -/
def decodeCommand (b : Byte) : Except Reject Instr :=
  if b.getLsbD 7 then .ok (.lcdSetDdramAddr (b.extractLsb' 0 7))
  else if b.getLsbD 6 then .ok (.lcdSetCgramAddr (b.extractLsb' 3 3) (b.extractLsb' 0 3))
  else if b.getLsbD 5 then
    .ok (.lcdFunctionSet (b.getLsbD 4) (b.getLsbD 3) (b.getLsbD 2) (b.extractLsb' 0 2))
  else if b.getLsbD 4 then .ok (.lcdShift (b.extractLsb' 0 4))
  else if b.getLsbD 3 then .ok (.lcdDisplayControl (b.getLsbD 2) (b.getLsbD 1) (b.getLsbD 0))
  else if b.getLsbD 2 then .ok (.lcdEntryMode (b.getLsbD 1) (b.getLsbD 0))
  else if b.getLsbD 1 then .ok (.lcdHome (b.extractLsb' 0 1))
  else if b.getLsbD 0 then .ok .lcdClear
  else .error .noCommand

/-- Decoding either kind of code. -/
def decode : Code → Except Reject Instr
  | .request w => decodeRequest w
  | .command b => decodeCommand b

/-! The encoder. -/

/-- A request word from its five fields, most significant first (R100, R76). -/
def packWord (op a b c : Byte) (p : BitVec 64) : Word := op ++ a ++ b ++ c ++ p

/-- Eight pattern bytes as the field `p`, `pattern[0]` in the top byte (R76, R102). A list of another length has no
encoding; its first eight bytes, padded with zeros, stand for it. -/
def packPattern (bs : List Byte) : BitVec 64 :=
  bs.getD 0 0 ++ bs.getD 1 0 ++ bs.getD 2 0 ++ bs.getD 3 0 ++ bs.getD 4 0 ++ bs.getD 5 0 ++ bs.getD 6 0 ++ bs.getD 7 0

/-- A word of format `N` (R101). -/
def packN (op : Byte) : Word := packWord op 0 0 0 0

/-- The words of an instruction (R100 to R102, R105; R120 for the command bytes). -/
def encode : Instr → Code
  | .init cols rows font bl0 =>
      .request (packWord 0x01 cols rows (font ++ (0#3 ++ BitVec.ofBool bl0)) 0)
  | .close => .request (packN 0x02)
  | .clear => .request (packN 0x10)
  | .home => .request (packN 0x11)
  | .setCursor row col => .request (packWord 0x12 row col 0 0)
  | .writeRaw code => .request (packWord 0x13 0 0 code 0)
  | .uploadCustomChar loc pattern => .request (packWord 0x14 loc 0 0 (packPattern pattern))
  | .backlightOn => .request (packN 0x20)
  | .backlightOff => .request (packN 0x21)
  | .backlightToggle => .request (packN 0x22)
  | .displayOn => .request (packN 0x24)
  | .displayOff => .request (packN 0x25)
  | .displayToggle => .request (packN 0x26)
  | .cursorOn => .request (packN 0x28)
  | .cursorOff => .request (packN 0x29)
  | .cursorToggle => .request (packN 0x2A)
  | .blinkOn => .request (packN 0x2C)
  | .blinkOff => .request (packN 0x2D)
  | .blinkToggle => .request (packN 0x2E)
  | .lcdClear => .command 0x01
  | .lcdHome ignored => .command (1#7 ++ ignored)
  | .lcdEntryMode increment shift => .command (1#6 ++ (BitVec.ofBool increment ++ BitVec.ofBool shift))
  | .lcdDisplayControl display cursor blink =>
      .command (1#5 ++ (BitVec.ofBool display ++ (BitVec.ofBool cursor ++ BitVec.ofBool blink)))
  | .lcdShift unused => .command (1#4 ++ unused)
  | .lcdFunctionSet eightBit twoLine font5x10 ignored =>
      .command (1#3 ++ (BitVec.ofBool eightBit ++ (BitVec.ofBool twoLine ++ (BitVec.ofBool font5x10 ++ ignored))))
  | .lcdSetCgramAddr glyph glyphRow => .command (1#2 ++ (glyph ++ glyphRow))
  | .lcdSetDdramAddr address => .command (1#1 ++ address)

/-- The request word of an instruction; a command byte's instruction has none, and the illegal all-zero word (R107)
stands for it. -/
def encodeRequest (i : Instr) : Word :=
  match encode i with
  | .request w => w
  | .command _ => 0

/-- R76: "the 96-bit request word is read as 12 bytes, the most significant byte first". -/
def bytesOfWord (w : Word) : List Byte :=
  [Word.op w, Word.a w, Word.b w, Word.c w] ++ patternBytes (Word.p w)

/-- A row of the opcode table: the bits a word must have (`value` under `mask`). -/
structure Row where
  mnemonic : String
  value : Word
  mask : Word
deriving DecidableEq, Repr

/-- The 19 request rows of spec/opcode_table.json, match and mask as the table prints them: a second account of which
words are legal (R106: "A decoder may use the structure or the table of rule R105; they agree"). -/
def requestRows : List Row :=
  [⟨"INIT", 0x010000000000000000000000, 0xFF00000EFFFFFFFFFFFFFFFF⟩,
   ⟨"CLOSE", 0x020000000000000000000000, 0xFFFFFFFFFFFFFFFFFFFFFFFF⟩,
   ⟨"CLEAR", 0x100000000000000000000000, 0xFFFFFFFFFFFFFFFFFFFFFFFF⟩,
   ⟨"HOME", 0x110000000000000000000000, 0xFFFFFFFFFFFFFFFFFFFFFFFF⟩,
   ⟨"SET_CURSOR", 0x120000000000000000000000, 0xFF0000FFFFFFFFFFFFFFFFFF⟩,
   ⟨"WRITE_RAW", 0x130000000000000000000000, 0xFFFFFF00FFFFFFFFFFFFFFFF⟩,
   ⟨"UPLOAD_CUSTOM_CHAR", 0x140000000000000000000000, 0xFF00FFFF0000000000000000⟩] ++
  [⟨"BACKLIGHT_ON", 0x200000000000000000000000, 0xFFFFFFFFFFFFFFFFFFFFFFFF⟩,
   ⟨"BACKLIGHT_OFF", 0x210000000000000000000000, 0xFFFFFFFFFFFFFFFFFFFFFFFF⟩,
   ⟨"BACKLIGHT_TOGGLE", 0x220000000000000000000000, 0xFFFFFFFFFFFFFFFFFFFFFFFF⟩,
   ⟨"DISPLAY_ON", 0x240000000000000000000000, 0xFFFFFFFFFFFFFFFFFFFFFFFF⟩,
   ⟨"DISPLAY_OFF", 0x250000000000000000000000, 0xFFFFFFFFFFFFFFFFFFFFFFFF⟩,
   ⟨"DISPLAY_TOGGLE", 0x260000000000000000000000, 0xFFFFFFFFFFFFFFFFFFFFFFFF⟩,
   ⟨"CURSOR_ON", 0x280000000000000000000000, 0xFFFFFFFFFFFFFFFFFFFFFFFF⟩,
   ⟨"CURSOR_OFF", 0x290000000000000000000000, 0xFFFFFFFFFFFFFFFFFFFFFFFF⟩,
   ⟨"CURSOR_TOGGLE", 0x2A0000000000000000000000, 0xFFFFFFFFFFFFFFFFFFFFFFFF⟩,
   ⟨"BLINK_ON", 0x2C0000000000000000000000, 0xFFFFFFFFFFFFFFFFFFFFFFFF⟩,
   ⟨"BLINK_OFF", 0x2D0000000000000000000000, 0xFFFFFFFFFFFFFFFFFFFFFFFF⟩,
   ⟨"BLINK_TOGGLE", 0x2E0000000000000000000000, 0xFFFFFFFFFFFFFFFFFFFFFFFF⟩]

/-- A word a row takes. -/
def Row.takes (r : Row) (w : Word) : Bool := w &&& r.mask == r.value

/-- The host's fixed name: the instruction the decoder reads from an instruction whose bits are `w`, numbered as
spec/opcode_table.json numbers them (96-bit request rows, 8-bit LCDCMD rows). -/
def decodeTableWord (nbits w : Nat) : Option Instr :=
  if nbits = 96 then (decodeRequest (BitVec.ofNat 96 w)).toOption
  else if nbits = 8 then (decodeCommand (BitVec.ofNat 8 w)).toOption
  else none

end Sys2Proof
end

