-- ==== Sys2Proof/Machine/State.lean ====
section
/-! DEFINITION. The machine's state as plain data: the block's record S (10_state.md), the ports and the environment's
answers (R45 to R48), the expander's latch and the controller (R44), and the outcomes' reasons. -/

namespace Sys2Proof.Machine

/-- `S.fsm` (10_state.md R33). The codes 6 and 7 are never taken and have no constructor. -/
inductive Fsm where
  | uninitialized
  | eightBitBoot
  | fourBitLatched
  | configured
  | ready
  | closed
deriving DecidableEq, Repr

/-- The six delay parameters a `Wait` names (R48). -/
inductive Delay where
  | powerOn
  | boot1
  | boot2
  | settle
  | clear
  | home
deriving DecidableEq, Repr

/-- What a transport request was answered (R47). -/
inductive Ack where
  | ok
  | err
deriving DecidableEq, Repr

/-- An answer the transport will give. `err reached` says, of a failed write, whether the byte still reached the
expander (60_exceptions.md R312: "either its old value or `v`, not chosen by the block"); the block sees `err` only. -/
inductive Answer where
  | ok
  | err (reached : Bool)
deriving DecidableEq, Repr

/-- An action of an operation's list (00_scope.md R15). -/
inductive Action where
  | tOpen
  | tWrite (v : Byte)
  | tClose
  | wait (t : Delay)
  | setFsm (f : Fsm)
deriving DecidableEq, Repr

/-- What an executed action leaves in the trace (00_scope.md R15). -/
inductive Event where
  | evOpen (a : Ack)
  | evWrite (v : Byte) (a : Ack)
  | evClose
  | evWait (t : Delay)
deriving DecidableEq, Repr

/-- The response codes (10_state.md R46, 60_exceptions.md R300). -/
inductive Response where
  | ok
  | invalidArgument
  | ioError
  | notReady
  | illegalRequest
deriving DecidableEq, Repr

/-- What the environment does to the machine besides offering requests. -/
inductive EnvInput where
  /-- Hardware reset (70_reset_and_hazards.md R341). `landed` says whether a transport write already issued still
  completes ("whether it completes is the transport's business"). -/
  | reset (landed : Bool)
  /-- The transport comes to have these further answers. -/
  | answers (l : List Answer)
  /-- The delay unit comes to give `n` further completions. -/
  | delays (n : Nat)
  /-- The transport comes to complete `n` further TClose requests. -/
  | closes (n : Nat)
deriving DecidableEq, Repr

/-- What the outside world does to the machine, in the order it happens. -/
inductive Input where
  /-- The host offers a request word (10_state.md R45). -/
  | request (w : Word)
  /-- Anything else. -/
  | env (e : EnvInput)
deriving DecidableEq, Repr

/-- Where the controller's address pointer points (10_state.md R44, 20_memory.md R71, R72). -/
inductive Ptr where
  | ddram (a : BitVec 7)
  | cgram (a : BitVec 6)
deriving DecidableEq, Repr

/-- The controller's interface width and nibble phase (R44, R155, R186, R311). -/
inductive Bus where
  /-- 8-bit, 4-bit or half-way through a byte: not known (R340, R311). `boots` counts the nibbles 0x3 with
  register-select 0 latched in a row since. -/
  | unknown (boots : Nat)
  /-- 8-bit: each latched nibble is a whole command (R155). -/
  | eightBit
  /-- 4-bit, with the register-select bit and high nibble of a half-received byte (R186). -/
  | fourBit (half : Option (Bool × Nibble))
deriving DecidableEq, Repr

/-- A memory: address and byte pairs in strictly rising address order. An address not listed holds no known byte. -/
abbrev Memory := List Host.Cell

/-- The controller behind the expander (10_state.md R44). The block never reads it (00_scope.md R7). -/
structure Lcd where
  bus : Bus
  /-- A byte latched and not yet executed, with its register-select bit. -/
  ir : Option (Bool × Byte)
  twoLine : Bool
  font5x10 : Bool
  dc : BitVec 3
  increment : Bool
  shift : Bool
  ptr : Ptr
  window : BitVec 7
  /-- Whether an unlisted DDRAM location is known to be emptied by a clear. -/
  emptied : Bool
  ddram : Memory
  cgram : Memory
  /-- The model's own: how many free values have been drawn here (log 30). -/
  draws : Nat
deriving DecidableEq, Repr

/-- The whole machine. -/
structure State where
  /-- The parameter record (00_scope.md R9): configuration, written by no step (log 3). -/
  params : Params
  fsm : Fsm
  cols : Byte
  rows : Byte
  font : Bool
  bl : Bool
  dc : BitVec 3
  busy : Bool
  upc : Nat
  req : Word
  ioFault : Bool
  tOpen : Bool
  /-- The expander's output latch `X.out` (R44), the one location of space PORT (20_memory.md R70). -/
  out : Byte
  lcd : Lcd
  inbox : List Input
  answers : List Answer
  delays : Nat
  /-- How many TClose requests the transport will complete (41_framing.md R192; log 26). -/
  closes : Nat
  /-- A TClose has been issued and is not completed (R190, R192; log 26). -/
  closing : Bool
  trace : List Event
  responses : List Response
  /-- The model's own: how many free values the block's side has drawn (log 30). -/
  draws : Nat
deriving DecidableEq, Repr

/-- The machine stops. -/
inductive Fault where
  /-- Raised by CLOSE accepted in Closed: "closing twice is undefined and must be avoided by the caller"; the spec gives
  it "no response, no events and no next state" (40_lifecycle_init.md R162). Safe: no claim can be proved of what
  happens after it. -/
  | doubleClose
  /-- Raised by step in a state that no run reaches: an operation in flight whose request latch holds no legal word.
  Safe: nothing can be proved of what happens after it (log 25). -/
  | lostRequest
deriving DecidableEq, Repr

/-- No meaning. -/
inductive Refusal where
  /-- Raised by exec's arms for an instruction that has no meaning yet (none is left). Safe. -/
  | notModelled (mnemonic : String)
  /-- Raised by step for a parameter record that breaks 00_scope.md R10 ("a model must refuse a parameter record that
  breaks these"). Safe. -/
  | badParameters
deriving DecidableEq, Repr

/-- The controller at reset. Hardware reset leaves the controller as it was (70_reset_and_hazards.md R340), so the spec
states no value. `bus` is the "ambiguous" state the handshake is built for (R155, R340). PRESUMED (unsafe, log 6): the
registers hold what a controller of the HD44780 kind (00_scope.md R3) holds after power-on. DESIGN CHOICE (safe,
log 15): its memories list nothing. -/
def Lcd.reset : Lcd where
  bus := .unknown 0
  ir := none
  twoLine := false
  font5x10 := false
  dc := 0
  increment := true
  shift := false
  ptr := .ddram 0
  window := 0
  emptied := false
  ddram := []
  cgram := []
  draws := 0

/-- The machine right after reset: 10_state.md R50 for `fsm`, `busy`, `upc`, `ioFault`, `tOpen`. DESIGN CHOICE (unsafe,
log 5): `cols`, `rows`, `font`, `bl`, `dc`, `req`, which R50 leaves unspecified, are 0. PRESUMED (unsafe, log 6): `out`
is 0xFF, what an expander of the PCF8574 kind (00_scope.md R3) drives after power-on. DESIGN CHOICE (logs 1, 2, 7, 29, 30):
no input, answer or completion is pending, nothing has been observed, the parameters are the defaults of R9. -/
def State.reset : State where
  params := Params.default
  fsm := .uninitialized
  cols := 0
  rows := 0
  font := false
  bl := false
  dc := 0
  busy := false
  upc := 0
  req := 0
  ioFault := false
  tOpen := false
  out := 0xFF
  lcd := Lcd.reset
  inbox := []
  answers := []
  delays := 0
  closes := 0
  closing := false
  trace := []
  responses := []
  draws := 0

end Sys2Proof.Machine
end

