-- ==== Sys2Proof/Machine/Memory.lean ====
section
/-! DEFINITION. The controller's two memories (20_memory.md R71, R72): lists of cells in strictly rising address order.
An address that is not listed holds no known byte (log 15), so no entry can equal what an unlisted address reads as. -/

namespace Sys2Proof.Machine

/-- The byte at an address; `none` where none is known. -/
def Memory.read : Memory → Nat → Option Byte
  | [], _ => none
  | (k, v) :: m, a => if a = k then some v else Memory.read m a

/-- Put a byte at an address, keeping the addresses strictly rising. -/
def Memory.write : Memory → Nat → Byte → Memory
  | [], a, b => [(a, b)]
  | (k, v) :: m, a, b =>
    if a < k then (a, b) :: (k, v) :: m
    else if a = k then (a, b) :: m
    else (k, v) :: Memory.write m a b

/-- The canonical form: addresses strictly rising. -/
def Memory.wf : Memory → Bool
  | [] => true
  | [_] => true
  | (k, _) :: (k', v') :: m => decide (k < k') && Memory.wf ((k', v') :: m)

/-- Every address is below `n`. -/
def Memory.within (n : Nat) (m : Memory) : Bool := m.all fun c => decide (c.1 < n)

end Sys2Proof.Machine
end

