-- ==== Sys2Proof/Machine/Lcd.lean ====
section
/-! DEFINITION. The controller behind the expander: what each command byte does to it, what a data byte does, how it
latches nibbles and pairs them, and what is not known of it. Only the effects the spec names are here (log 32). -/

namespace Sys2Proof.Machine

/-- A free pointer: into either memory, at any address. -/
def freePtr (n : Nat) : Ptr :=
  if Config.lcdBit n then .ddram (Config.ddramAddr n) else .cgram (Config.cgramAddr n)

/-- Everything but the interface is unknown: after a failed write (60_exceptions.md R311, 93 U3), and for every nibble
taken while the interface is unknown. -/
def Lcd.scramble (l : Lcd) : Lcd :=
  { l with
    ir := none
    twoLine := Config.lcdBit l.draws
    font5x10 := Config.lcdBit (l.draws + 1)
    dc := Config.lcdDc l.draws
    increment := Config.lcdBit (l.draws + 2)
    shift := Config.lcdBit (l.draws + 3)
    ptr := freePtr (l.draws + 4)
    window := Config.windowPos l.draws
    emptied := false
    ddram := []
    cgram := []
    draws := l.draws + 5 }

/-- Nothing at all is known of the controller any more. -/
def Lcd.desync (l : Lcd) : Lcd := { l.scramble with bus := .unknown 0 }

/-- The columns and rows of the display the host has declared (10_state.md R34): where a claim about screen content may know
the pointer (93_implementation_defined.md U5). -/
abbrev Screen := Byte × Byte

/-- The first DDRAM addresses of the four rows (20_memory.md R71). -/
def rowStarts : List Nat := [0x00, 0x40, 0x14, 0x54]

/-- Whether the DDRAM address after `a` lies in the same visible row of the screen: column `a` and the next are both below the
columns (42_screen_cursor.md R216). A screen that is not 20 wide counts as 16 wide: R34 has no other. -/
def sameRowNext (screen : Screen) (a : BitVec 7) : Bool :=
  (rowStarts.take screen.2.toNat).any fun start =>
    decide (start ≤ a.toNat) && decide (a.toNat + 1 < start + if screen.1 = 20 then 20 else 16)

/-- The pointer after a data byte. In a visible row it steps by one ("auto-incrementing per entry mode", 44_text_output.md
R240); in a glyph it steps to the next row (20_memory.md R72), and after the last it "is left at the final CGRAM row"
(43_custom_char.md R233). Past the last column of the screen (R355, 93 U5), outside its rows, and without the increment mode the
spec states no address: a free one, in the same memory (logs 16, 17). -/
def Lcd.nextPtr (screen : Screen) (l : Lcd) : Ptr :=
  match l.ptr with
  | .ddram a => if l.increment && sameRowNext screen a then .ddram (a + 1) else .ddram (Config.ddramAddr l.draws)
  | .cgram a =>
    if l.increment then (if a.extractLsb' 0 3 = 7#3 then .cgram a else .cgram (a + 1))
    else .cgram (Config.cgramAddr l.draws)

/-- A data byte goes where the pointer points (44_text_output.md R240, R241 (c)), and the pointer steps. With the entry
mode's shift bit the display moves too, by an amount the spec does not state (log 19). DESIGN CHOICE (unsafe, log 36): each of
the 128 DDRAM addresses is a location of its own, those past the visible columns too; the spec leaves to the platform how many
there are (20_memory.md R73). -/
def Lcd.data (screen : Screen) (b : Byte) (l : Lcd) : Lcd :=
  let moved := { l with
    ptr := l.nextPtr screen
    window := if l.shift then Config.windowPos l.draws else l.window
    draws := l.draws + 1 }
  match l.ptr with
  | .ddram a => { moved with ddram := l.ddram.write a.toNat b }
  | .cgram a => { moved with cgram := l.cgram.write a.toNat b }

/-- LCD_CLEAR: "clears the display memory and puts the address pointer back to the first DDRAM location" (R211). -/
def Lcd.clear (l : Lcd) : Lcd := { l with ddram := [], emptied := true, ptr := .ddram 0 }

/-- LCD_HOME: "put the controller's pointer back into DDRAM" (70_reset_and_hazards.md R350); the address is not stated,
so it is free (log 18). -/
def Lcd.home (l : Lcd) : Lcd := { l with ptr := .ddram (Config.ddramAddr l.draws), draws := l.draws + 1 }

/-- LCD_ENTRY_MODE: "bit 1 = increment, bit 0 = shift" (R120). -/
def Lcd.entryMode (increment shift : Bool) (l : Lcd) : Lcd := { l with increment := increment, shift := shift }

/-- LCD_DISPLAY_CONTROL: "bits 2:0 = display, cursor, blink" (R120). -/
def Lcd.displayControl (display cursor blink : Bool) (l : Lcd) : Lcd :=
  { l with dc := BitVec.ofBool display ++ (BitVec.ofBool cursor ++ BitVec.ofBool blink) }

/-- LCD_SHIFT: "cursor/display shift" (R120): it moves the pointer or the display; which and how far is not stated, so
both are free (log 19). -/
def Lcd.shiftBy (l : Lcd) : Lcd :=
  { l with ptr := freePtr l.draws, window := Config.windowPos l.draws, draws := l.draws + 1 }

/-- LCD_FUNCTION_SET: "bit 4 = 8-bit interface, bit 3 = two lines, bit 2 = 5x10 font" (R120). -/
def Lcd.functionSet (eightBit twoLine font5x10 : Bool) (l : Lcd) : Lcd :=
  { l with
    bus := if eightBit then .eightBit else .fourBit none
    twoLine := twoLine
    font5x10 := font5x10 }

/-- LCD_SET_CGRAM_ADDR: "glyph number in bits 5:3 and row in bits 2:0" (20_memory.md R72). -/
def Lcd.setCgram (glyph glyphRow : BitVec 3) (l : Lcd) : Lcd := { l with ptr := .cgram (glyph ++ glyphRow) }

/-- LCD_SET_DDRAM_ADDR: "bits 6:0 the address" (R120). -/
def Lcd.setDdram (address : BitVec 7) (l : Lcd) : Lcd := { l with ptr := .ddram address }

/-- What a decoded command does. The block's own operations are no commands of the controller. -/
def Lcd.command (i : Instr) (l : Lcd) : Lcd :=
  match i with
  | .lcdClear => l.clear
  | .lcdHome _ => l.home
  | .lcdEntryMode increment shift => l.entryMode increment shift
  | .lcdDisplayControl display cursor blink => l.displayControl display cursor blink
  | .lcdShift _ => l.shiftBy
  | .lcdFunctionSet eightBit twoLine font5x10 _ => l.functionSet eightBit twoLine font5x10
  | .lcdSetCgramAddr glyph glyphRow => l.setCgram glyph glyphRow
  | .lcdSetDdramAddr address => l.setDdram address
  | .init .. | .close | .clear | .home | .setCursor .. | .writeRaw _ | .uploadCustomChar .. => l
  | .backlightOn | .backlightOff | .backlightToggle | .displayOn | .displayOff | .displayToggle => l
  | .cursorOn | .cursorOff | .cursorToggle | .blinkOn | .blinkOff | .blinkToggle => l

/-- The controller executes a byte. "0x00 is no command" (R120): it has no effect (DEDUCED, log 20). -/
def Lcd.byte (screen : Screen) (rs : Bool) (b : Byte) (l : Lcd) : Lcd :=
  if rs then l.data screen b
  else
    match decodeCommand b with
    | .ok i => l.command i
    | .error _ => l

/-- The controller does the work it has latched: the waits give it the time to (20_memory.md R83). -/
def Lcd.settle (screen : Screen) (l : Lcd) : Lcd :=
  match l.ir with
  | none => l
  | some (rs, b) => Lcd.byte screen rs b { l with ir := none }

/-- A falling edge of enable delivers a register-select bit and a nibble (41_framing.md R186).
In 4-bit mode two of them make a byte, high nibble first. In 8-bit mode one is a whole command "whose low four data
lines are not driven by the expander" (R155): they are free. In the unknown state three nibbles 0x3 in a row are the
"recovery sequence" into 8-bit mode (R155). A nibble that arrives before the last byte's work is done (R351), and
halves whose register-select bits differ, are not covered by the spec: free (log 21). -/
def Lcd.latch (rs : Bool) (n : Nibble) (l : Lcd) : Lcd :=
  match l.ir with
  | some _ => l.desync
  | none =>
    match l.bus with
    | .unknown boots =>
      { l.scramble with
        bus := if !rs && n == Config.nibBoot8 then
            (if 2 ≤ boots then .eightBit else .unknown (boots + 1))
          else .unknown 0 }
    | .eightBit => { l with ir := some (rs, n ++ Config.undrivenNibble l.draws), draws := l.draws + 1 }
    | .fourBit none => { l with bus := .fourBit (some (rs, n)) }
    | .fourBit (some (rs', h)) =>
      { l with
        bus := .fourBit none
        ir := some (if rs' == rs then rs else Config.lcdBit l.draws, h ++ n)
        draws := l.draws + 1 }

/-- What is known to stand at a DDRAM location. -/
inductive Cell where
  | code (b : Byte)
  | emptied
  | unknown
deriving DecidableEq, Repr

/-- What a DDRAM address holds. -/
def Lcd.ddramAt (l : Lcd) (a : BitVec 7) : Cell :=
  match l.ddram.read a.toNat with
  | some b => .code b
  | none => if l.emptied then .emptied else .unknown

/-- The DDRAM address of a screen position: the low seven bits of its set-address command byte (20_memory.md R71). -/
def screenAddr (row col : Byte) : BitVec 7 := (Config.rowBase row + col).extractLsb' 0 7

/-- What a screen position holds. -/
def Lcd.charAt (l : Lcd) (row col : Byte) : Cell := l.ddramAt (screenAddr row col)

/-- The dots of one row of a glyph: "each byte's low 5 bits significant" (20_memory.md R72). -/
def Lcd.glyphRow (l : Lcd) (glyph row : BitVec 3) : Option (BitVec 5) :=
  (l.cgram.read (glyph ++ row).toNat).map fun b => b.extractLsb' 0 5

/-- The custom glyph that a location shows: "Codes 0x00 to 0x07 show the eight custom glyphs" (44_text_output.md R241 (a),
general knowledge of the spec's). What other codes show, the spec does not say. -/
def Cell.glyph : Cell → Option (BitVec 3)
  | .code b => if b < 8 then some (b.extractLsb' 0 3) else none
  | .emptied | .unknown => none

/-- The dots of one row of the custom glyph that a DDRAM location shows, where they are known. -/
def Lcd.dots (l : Lcd) (a : BitVec 7) (row : BitVec 3) : Option (BitVec 5) :=
  (l.ddramAt a).glyph.bind fun g => l.glyphRow g row

end Sys2Proof.Machine
end

