-- ==== Sys2Proof/Machine/Controller.lean ====
section
/-! DEFINITION. The controller's command bytes as instructions (30_encoding.md R120): each acts on `lcd` alone. -/

namespace Sys2Proof.Machine

/-- LCD_CLEAR (R110, R211). -/
def execLcdClear (s : State) : Host.Outcome State Fault Refusal := .next { s with lcd := s.lcd.clear }

/-- LCD_HOME (R111, R350). -/
def execLcdHome (_ignored : BitVec 1) (s : State) : Host.Outcome State Fault Refusal := .next { s with lcd := s.lcd.home }

/-- LCD_ENTRY_MODE (R112, R120). -/
def execLcdEntryMode (increment shift : Bool) (s : State) : Host.Outcome State Fault Refusal :=
  .next { s with lcd := s.lcd.entryMode increment shift }

/-- LCD_DISPLAY_CONTROL (R114, R120). -/
def execLcdDisplayControl (display cursor blink : Bool) (s : State) : Host.Outcome State Fault Refusal :=
  .next { s with lcd := s.lcd.displayControl display cursor blink }

/-- LCD_SHIFT (R120). -/
def execLcdShift (_unused : Nibble) (s : State) : Host.Outcome State Fault Refusal := .next { s with lcd := s.lcd.shiftBy }

/-- LCD_FUNCTION_SET (R115, R120). -/
def execLcdFunctionSet (eightBit twoLine font5x10 : Bool) (_ignored : BitVec 2) (s : State) :
    Host.Outcome State Fault Refusal :=
  .next { s with lcd := s.lcd.functionSet eightBit twoLine font5x10 }

/-- LCD_SET_CGRAM_ADDR (R116, R72). -/
def execLcdSetCgramAddr (glyph glyphRow : BitVec 3) (s : State) : Host.Outcome State Fault Refusal :=
  .next { s with lcd := s.lcd.setCgram glyph glyphRow }

/-- LCD_SET_DDRAM_ADDR (R117, R71). -/
def execLcdSetDdramAddr (address : BitVec 7) (s : State) : Host.Outcome State Fault Refusal :=
  .next { s with lcd := s.lcd.setDdram address }

end Sys2Proof.Machine
end

