-- ==== Sys2Proof/Machine/Flags.lean ====
section
/-! DEFINITION. The block has no arithmetic flags (10_state.md R41). Here are its status: the numeric codes of `S.fsm`
and of the responses, the bits of `S.dc`, and the status port. -/

namespace Sys2Proof.Machine

/-- The code of `S.fsm` (10_state.md R33). -/
def Fsm.code : Fsm → BitVec 3
  | .uninitialized => 0
  | .eightBitBoot => 1
  | .fourBitLatched => 2
  | .configured => 3
  | .ready => 4
  | .closed => 5

/-- The code of a response (60_exceptions.md R300). -/
def Response.code : Response → BitVec 3
  | .ok => 0
  | .invalidArgument => 1
  | .ioError => 2
  | .notReady => 3
  | .illegalRequest => 4

/-- The duration a `Wait` names, in microseconds (00_scope.md R9). -/
def Delay.micros (p : Params) : Delay → Nat
  | .powerOn => p.tPowerOn
  | .boot1 => p.tBoot1
  | .boot2 => p.tBoot2
  | .settle => p.tSettle
  | .clear => p.tClear
  | .home => p.tHome

/-- `S.dc[2] <- on` (10_state.md R36). -/
def dcSetDisplay (on : Bool) (dc : BitVec 3) : BitVec 3 := if on then dc ||| 0b100 else dc &&& 0b011

/-- `S.dc[1] <- on` (10_state.md R36). -/
def dcSetCursor (on : Bool) (dc : BitVec 3) : BitVec 3 := if on then dc ||| 0b010 else dc &&& 0b101

/-- `S.dc[0] <- on` (10_state.md R36). -/
def dcSetBlink (on : Bool) (dc : BitVec 3) : BitVec 3 := if on then dc ||| 0b001 else dc &&& 0b110

/-- A handle exists (10_state.md R42): the mirrored fields hold specified values. -/
def Fsm.hasHandle : Fsm → Bool
  | .eightBitBoot | .fourBitLatched | .configured | .ready => true
  | .uninitialized | .closed => false

/-- What the status port shows (10_state.md R48). -/
structure StatusPort where
  fsm : BitVec 3
  cols : Byte
  rows : Byte
  font : Bool
  bl : Bool
  dc : BitVec 3
  ioFault : Bool
  tOpen : Bool
  idle : Bool
deriving DecidableEq, Repr

/-- Reading the status port: no side effect; while no handle exists the mirrored outputs are any value (R42, R48): free ones, two
of a kind at arguments that no other counter shares. DESIGN CHOICE (log 9): two readings of one output agree as long as no free
value of the block's has been drawn between them. -/
def statusPort (s : State) : StatusPort where
  fsm := s.fsm.code
  cols := if s.fsm.hasHandle then s.cols else Config.statusByte (2 * s.draws)
  rows := if s.fsm.hasHandle then s.rows else Config.statusByte (2 * s.draws + 1)
  font := if s.fsm.hasHandle then s.font else Config.statusBit (2 * s.draws)
  bl := if s.fsm.hasHandle then s.bl else Config.statusBit (2 * s.draws + 1)
  dc := if s.fsm.hasHandle then s.dc else Config.statusDc s.draws
  ioFault := s.ioFault
  tOpen := s.tOpen
  idle := !s.busy

end Sys2Proof.Machine
end

