-- ==== Sys2Proof/Machine/Operands.lean ====
section
/-! DEFINITION. Operand checks, the expander byte, and the command bytes the block emits (30_encoding.md). -/

namespace Sys2Proof.Machine

/-- `v[7:4]` (41_framing.md R184). -/
def hiNibble (v : Byte) : Nibble := v.extractLsb' 4 4

/-- `v[3:0]` (41_framing.md R184). -/
def loNibble (v : Byte) : Nibble := v.extractLsb' 0 4

/-- `ctl(rs)` (41_framing.md R181). -/
def ctl (p : Params) (bl rs : Bool) : Byte := (if bl then p.blMask else 0) ||| (if rs then p.rsMask else 0)

/-- `xbyte(n, rs, en)` (30_encoding.md R104). -/
def xbyte (p : Params) (bl : Bool) (n : Nibble) (rs en : Bool) : Byte :=
  ctl p bl rs ||| (if en then p.enMask else 0) ||| (n.setWidth 8 <<< 4)

/-- `CB_CLEAR` (R110). -/
def cbClear (p : Params) : Byte := p.cmdClear

/-- `CB_HOME` (R111). -/
def cbHome (p : Params) : Byte := p.cmdHome

/-- `CB_ENTRY` (R112): increment, no shift. -/
def cbEntry (p : Params) : Byte := p.cmdEntry ||| p.entryInc

/-- `CB_DISPCTL(dc)` (R114): always all three bits. -/
def cbDispctl (p : Params) (dc : BitVec 3) : Byte :=
  p.cmdDispctl ||| (if dc.getLsbD 2 then p.dcDisplay else 0) ||| (if dc.getLsbD 1 then p.dcCursor else 0) |||
  (if dc.getLsbD 0 then p.dcBlink else 0)

/-- `CB_FUNCSET` (R115). -/
def cbFuncset (p : Params) (rows : Byte) (font : Bool) : Byte :=
  p.cmdFuncset ||| p.fs4bit ||| (if 1 < rows then p.fs2line else p.fs1line) ||| (if font then p.fs5x10 else p.fs5x8)

/-- `CB_CGRAM(loc)` (R116): the location is masked to 3 bits. -/
def cbCgram (loc : Byte) : Byte := Config.cmdCgram ||| ((loc &&& 0x7) <<< 3)

/-- `CB_DDRAM(row, col)` (R117). -/
def cbDdram (row col : Byte) : Byte := Config.rowBase row + col

/-- INIT's validation (40_lifecycle_init.md R151). -/
def initValid (cols rows : Byte) (font : Nibble) : Bool :=
  Config.colsSet.contains cols && Config.rowsSet.contains rows && (font == 0 || font == 1) && !(font == 1 && rows != 1)

/-- SET_CURSOR's range check, unsigned (42_screen_cursor.md R214). -/
def cursorValid (cols rows row col : Byte) : Bool := decide (col < cols) && decide (row < rows)

end Sys2Proof.Machine
end

