-- ==== Sys2Proof/Machine/Ops.lean ====
section
/-! DEFINITION. The shared operations: writing PORT, framing (41_framing.md R180 to R186), running an action list (R190),
the abort, which is the block's one exception (R191, 60_exceptions.md R310; there is no return from it, R313), and the
responses. -/

namespace Sys2Proof.Machine

/-- The byte `v` appears on the expander's outputs (60_exceptions.md R323). If that takes the enable bit from 1 to 0, the
controller samples what stood there (20_memory.md R81, 41_framing.md R186). -/
def drive (v : Byte) (s : State) : State :=
  if s.out &&& s.params.enMask != 0 && v &&& s.params.enMask == 0 then
    { s with out := v, lcd := s.lcd.latch (s.out &&& s.params.rsMask != 0) (hiNibble s.out) }
  else { s with out := v }

/-- A write answered `err`: the expander holds its old value or `v` (60_exceptions.md R312), and what the controller makes
of it is not known (R311, 93 U3). -/
def driveFailed (v : Byte) (reached : Bool) (s : State) : State :=
  let s' := if reached then drive v s else s
  { s' with lcd := s'.lcd.desync }

/-! Framing. -/

/-- `writeNibble(n, rs)` (41_framing.md R182). -/
def writeNibble (p : Params) (bl : Bool) (n : Nibble) (rs : Bool) : List Action :=
  [.tWrite (xbyte p bl n rs true), .tWrite (xbyte p bl n rs false), .wait .settle]

/-- `send(v, rs)` (41_framing.md R184): high nibble first. -/
def send (p : Params) (bl : Bool) (v : Byte) (rs : Bool) : List Action :=
  writeNibble p bl (hiNibble v) rs ++ writeNibble p bl (loNibble v) rs

/-! Responses and the beginning and end of an operation. -/

/-- Give a response and become idle, with no request outstanding (10_state.md R46, R37). What the request latch then holds is
"any value" (R38, 93_implementation_defined.md U2): a free one (log 8). -/
def respond (r : Response) (s : State) : State :=
  { s with
    responses := s.responses ++ [r]
    busy := false
    upc := 0
    closing := false
    req := Config.freeWord s.draws
    draws := s.draws + 1 }

/-- An operation is in flight, at its first action, with no request outstanding (41_framing.md R190). -/
def start (s : State) : State := { s with busy := true, upc := 0, closing := false }

/-- The transport completes the TClose: its event, and no transport is owned any more (41_framing.md R190, 10_state.md R40);
`n` completions are left. That this is when the close completes, not when it is issued, is the model's reading (log 26). -/
def finishClose (n : Nat) (s : State) : State :=
  { s with trace := s.trace ++ [.evClose], tOpen := false, closing := false, closes := n }

/-- The columns and rows declared (10_state.md R34). -/
def State.screen (s : State) : Screen := (s.cols, s.rows)

/-- The mirrored fields become unspecified (10_state.md R42): free values. -/
def dropMirror (s : State) : State :=
  { s with
    cols := Config.freeByte s.draws
    rows := Config.freeByte (s.draws + 1)
    font := Config.freeBit s.draws
    bl := Config.freeBit (s.draws + 1)
    dc := Config.freeDc s.draws
    draws := s.draws + 2 }

/-- `SetFsm(f)` (41_framing.md R190). Entering Closed ends the handle (40_lifecycle_init.md R160, 10_state.md R42). -/
def setFsm (f : Fsm) (s : State) : State :=
  if f = .closed then dropMirror { s with fsm := f } else { s with fsm := f }

/-! Executing actions. -/

/-- How an action ends. -/
inductive Done where
  /-- It completed without `err`. -/
  | completed (s : State)
  /-- It was answered `err`; its event is recorded. -/
  | failed (s : State)
  /-- The environment has not answered: the block waits (41_framing.md R192). -/
  | waiting (s : State)

/-- Executing one action (41_framing.md R190). TClose has no answer the block uses (10_state.md R47), but it
takes whatever the transport takes (R192); a Wait cannot fail. -/
def execAction (a : Action) (s : State) : Done :=
  match a with
  | .tOpen =>
    match s.answers with
    | [] => .waiting s
    | .ok :: l => .completed { s with answers := l, trace := s.trace ++ [.evOpen .ok], tOpen := true }
    | .err _ :: l => .failed { s with answers := l, trace := s.trace ++ [.evOpen .err] }
  | .tWrite v =>
    match s.answers with
    | [] => .waiting s
    | .ok :: l => .completed (drive v { s with answers := l, trace := s.trace ++ [.evWrite v .ok] })
    | .err reached :: l => .failed (driveFailed v reached { s with answers := l, trace := s.trace ++ [.evWrite v .err] })
  | .tClose =>
    match s.closes with
    | 0 => .waiting { s with closing := true }
    | n + 1 => .completed (finishClose n s)
  | .wait t =>
    match s.delays with
    | 0 => .waiting s
    | n + 1 => .completed { s with delays := n, trace := s.trace ++ [.evWait t], lcd := s.lcd.settle s.screen }
  | .setFsm f => .completed (setFsm f s)

/-- Running the rest of an action list (41_framing.md R190): `upc` steps by one with every completed action; an `err`
aborts; when the environment has not answered, the operation stays in flight; at the end the response is `OK`. -/
def run (abort : State → State) : List Action → State → State
  | [], s => respond .ok s
  | a :: l, s =>
    match execAction a s with
    | .completed s' => run abort l { s' with upc := s'.upc + 1 }
    | .failed s' => abort s'
    | .waiting s' => s'

/-- The abort of every operation but INIT (41_framing.md R191, 60_exceptions.md R310): nothing is saved, nothing is rolled
back, control goes nowhere; `S.fsm` stays. -/
def abortReady (s : State) : State := respond .ioError { s with ioFault := true }

/-- The end of INIT's abort (40_lifecycle_init.md R156): the block is Uninitialized; the mirrored fields are unspecified. -/
def failInit (s : State) : State := respond .ioError (dropMirror { s with fsm := .uninitialized, ioFault := true })

/-- INIT's abort at its TClose (R156): when the transport has not completed it, the block waits (41_framing.md R192). -/
def closeInit (s : State) : State :=
  match s.closes with
  | 0 => { s with closing := true }
  | n + 1 => failInit (finishClose n s)

/-- The abort of INIT (40_lifecycle_init.md R156): when it is not the TOpen of action 0 that failed, one TClose is executed
first. -/
def abortInit (s : State) : State := if s.upc = 0 then failInit s else closeInit s

/-- The state check of the 17 operations that only `Ready` takes (60_exceptions.md R305): `NotReady` elsewhere, without
effect. -/
def inReady (body : State → State) (s : State) : State :=
  if s.fsm = .ready then body (start s) else respond .notReady s

end Sys2Proof.Machine
end

