-- ==== Sys2Proof/Machine/CustomChar.lean ====
section
/-! DEFINITION. UPLOAD_CUSTOM_CHAR (43_custom_char.md). -/

namespace Sys2Proof.Machine

/-- UPLOAD_CUSTOM_CHAR's action list (R230): one address command, then the pattern's bytes in order, unchanged. -/
def uploadActions (loc : Byte) (pattern : List Byte) (s : State) : List Action :=
  send s.params s.bl (cbCgram loc) false ++ pattern.flatMap fun b => send s.params s.bl b true

/-- UPLOAD_CUSTOM_CHAR (R230): no validation. -/
def execUploadCustomChar (loc : Byte) (pattern : List Byte) (s : State) : Host.Outcome State Fault Refusal :=
  .next (inReady (fun s => run abortReady (uploadActions loc pattern s) s) s)

end Sys2Proof.Machine
end

