-- ==== Sys2Proof/Machine/Lifecycle.lean ====
section
/-! DEFINITION. INIT and CLOSE (40_lifecycle_init.md). -/

namespace Sys2Proof.Machine

/-- INIT's action list, 45 actions (R153). -/
def initActions (s : State) : List Action :=
  let nibble := fun n => writeNibble s.params s.bl n false
  let command := fun v => send s.params s.bl v false
  [.tOpen, .wait .powerOn, .setFsm .eightBitBoot] ++
  nibble Config.nibBoot8 ++ [.wait .boot1] ++
  nibble Config.nibBoot8 ++ [.wait .boot2] ++
  nibble Config.nibBoot8 ++
  nibble Config.nibTo4 ++ [.setFsm .fourBitLatched] ++
  command (cbFuncset s.params s.rows s.font) ++ [.setFsm .configured] ++
  command (cbDispctl s.params 0b100) ++
  command (cbEntry s.params) ++
  command (cbClear s.params) ++ [.wait .clear, .setFsm .ready]

/-- The state a valid INIT writes before its first action (R152). -/
def initWrites (cols rows : Byte) (font : Nibble) (bl0 : Bool) (s : State) : State :=
  { s with
    fsm := .uninitialized
    cols := cols
    rows := rows
    font := font.getLsbD 0
    bl := bl0
    dc := 0b100
    ioFault := false }

/-- INIT (R150): taken in Uninitialized and Closed only; validate (R151), write the state (R152), run the list (R153). -/
def execInit (cols rows : Byte) (font : Nibble) (bl0 : Bool) (s : State) : Host.Outcome State Fault Refusal :=
  if s.fsm = .uninitialized ∨ s.fsm = .closed then
    if initValid cols rows font then
      let s' := initWrites cols rows font bl0 (start s)
      .next (run abortInit (initActions s') s')
    else .next (respond .invalidArgument s)
  else .next (respond .notReady s)

/-- CLOSE's action list (R160). -/
def closeActions (_ : State) : List Action := [.tClose, .setFsm .closed]

/-- CLOSE (R160, R161): taken in Ready. In Closed it is the double close, a fault (R162). -/
def execClose (s : State) : Host.Outcome State Fault Refusal :=
  if s.fsm = .closed then .fault .doubleClose
  else .next (inReady (fun s => run abortReady (closeActions s) s) s)

end Sys2Proof.Machine
end

