-- ==== Sys2Proof/Machine/Screen.lean ====
section
/-! DEFINITION. CLEAR, HOME and SET_CURSOR (42_screen_cursor.md). -/

namespace Sys2Proof.Machine

/-- CLEAR's action list (R210). -/
def clearActions (s : State) : List Action := send s.params s.bl (cbClear s.params) false ++ [.wait .clear]

/-- CLEAR (R210). -/
def execClear (s : State) : Host.Outcome State Fault Refusal :=
  .next (inReady (fun s => run abortReady (clearActions s) s) s)

/-- HOME's action list (R212). -/
def homeActions (s : State) : List Action := send s.params s.bl (cbHome s.params) false ++ [.wait .home]

/-- HOME (R212). -/
def execHome (s : State) : Host.Outcome State Fault Refusal :=
  .next (inReady (fun s => run abortReady (homeActions s) s) s)

/-- SET_CURSOR's action list (R214). -/
def setCursorActions (row col : Byte) (s : State) : List Action := send s.params s.bl (cbDdram row col) false

/-- SET_CURSOR (R214): an out-of-range position is `InvalidArgument` and writes nothing. -/
def execSetCursor (row col : Byte) (s : State) : Host.Outcome State Fault Refusal :=
  .next (inReady (fun s =>
    if cursorValid s.cols s.rows row col then run abortReady (setCursorActions row col s) s
    else respond .invalidArgument s) s)

end Sys2Proof.Machine
end

