-- ==== Sys2Proof/Machine/Text.lean ====
section
/-! DEFINITION. WRITE_RAW (44_text_output.md). -/

namespace Sys2Proof.Machine

/-- WRITE_RAW's action list (R240): one data byte. -/
def writeRawActions (code : Byte) (s : State) : List Action := send s.params s.bl code true

/-- WRITE_RAW (R240): no validation. -/
def execWriteRaw (code : Byte) (s : State) : Host.Outcome State Fault Refusal :=
  .next (inReady (fun s => run abortReady (writeRawActions code s) s) s)

end Sys2Proof.Machine
end

