-- ==== Sys2Proof/Machine/Toggles.lean ====
section
/-! DEFINITION. The twelve backlight, display, cursor and blink operations (45_toggles.md): each writes one mirrored bit,
then runs a list built from the state after that write (R260, R261). -/

namespace Sys2Proof.Machine

/-- `bl_apply()` (R265). -/
def blApplyActions (s : State) : List Action :=
  match s.params.blApply with
  | .resendDc => send s.params s.bl (cbDispctl s.params s.dc) false
  | .bareWrite => [.tWrite (if s.bl then s.params.blMask else 0)]
  | .none => []

/-- The list of the display, cursor and blink operations: the whole of `S.dc` (R275). -/
def dispctlActions (s : State) : List Action := send s.params s.bl (cbDispctl s.params s.dc) false

/-- Write `S.bl`, then apply it (R261, R265). -/
def backlightTo (bl : State → Bool) (s : State) : State :=
  inReady (fun s =>
    let s' := { s with bl := bl s }
    run abortReady (blApplyActions s') s') s

/-- Write `S.dc`, then re-send it (R261). -/
def dcTo (dc : State → BitVec 3) (s : State) : State :=
  inReady (fun s =>
    let s' := { s with dc := dc s }
    run abortReady (dispctlActions s') s') s

/-- BACKLIGHT_ON (R262). -/
def execBacklightOn (s : State) : Host.Outcome State Fault Refusal := .next (backlightTo (fun _ => true) s)

/-- BACKLIGHT_OFF (R263). -/
def execBacklightOff (s : State) : Host.Outcome State Fault Refusal := .next (backlightTo (fun _ => false) s)

/-- BACKLIGHT_TOGGLE (R264). -/
def execBacklightToggle (s : State) : Host.Outcome State Fault Refusal := .next (backlightTo (fun s => !s.bl) s)

/-- DISPLAY_ON (R266). -/
def execDisplayOn (s : State) : Host.Outcome State Fault Refusal := .next (dcTo (fun s => dcSetDisplay true s.dc) s)

/-- DISPLAY_OFF (R267). -/
def execDisplayOff (s : State) : Host.Outcome State Fault Refusal := .next (dcTo (fun s => dcSetDisplay false s.dc) s)

/-- DISPLAY_TOGGLE (R268). -/
def execDisplayToggle (s : State) : Host.Outcome State Fault Refusal :=
  .next (dcTo (fun s => dcSetDisplay (!s.dc.getLsbD 2) s.dc) s)

/-- CURSOR_ON (R269). -/
def execCursorOn (s : State) : Host.Outcome State Fault Refusal := .next (dcTo (fun s => dcSetCursor true s.dc) s)

/-- CURSOR_OFF (R270). -/
def execCursorOff (s : State) : Host.Outcome State Fault Refusal := .next (dcTo (fun s => dcSetCursor false s.dc) s)

/-- CURSOR_TOGGLE (R271). -/
def execCursorToggle (s : State) : Host.Outcome State Fault Refusal :=
  .next (dcTo (fun s => dcSetCursor (!s.dc.getLsbD 1) s.dc) s)

/-- BLINK_ON (R272). -/
def execBlinkOn (s : State) : Host.Outcome State Fault Refusal := .next (dcTo (fun s => dcSetBlink true s.dc) s)

/-- BLINK_OFF (R273). -/
def execBlinkOff (s : State) : Host.Outcome State Fault Refusal := .next (dcTo (fun s => dcSetBlink false s.dc) s)

/-- BLINK_TOGGLE (R274). -/
def execBlinkToggle (s : State) : Host.Outcome State Fault Refusal :=
  .next (dcTo (fun s => dcSetBlink (!s.dc.getLsbD 0) s.dc) s)

end Sys2Proof.Machine
end

