-- ==== Sys2Proof/Machine/Dispatch.lean ====
section
/-! DEFINITION. One arm per instruction (the opcode table's rows in order). -/

namespace Sys2Proof.Machine

def exec (i : Instr) (s : State) : Host.Outcome State Fault Refusal :=
  match i with
  | .init cols rows font bl0 => Sys2Proof.Machine.execInit cols rows font bl0 s
  | .close => Sys2Proof.Machine.execClose s
  | .clear => Sys2Proof.Machine.execClear s
  | .home => Sys2Proof.Machine.execHome s
  | .setCursor row col => Sys2Proof.Machine.execSetCursor row col s
  | .writeRaw code => Sys2Proof.Machine.execWriteRaw code s
  | .uploadCustomChar loc pattern => Sys2Proof.Machine.execUploadCustomChar loc pattern s
  | .backlightOn => Sys2Proof.Machine.execBacklightOn s
  | .backlightOff => Sys2Proof.Machine.execBacklightOff s
  | .backlightToggle => Sys2Proof.Machine.execBacklightToggle s
  | .displayOn => Sys2Proof.Machine.execDisplayOn s
  | .displayOff => Sys2Proof.Machine.execDisplayOff s
  | .displayToggle => Sys2Proof.Machine.execDisplayToggle s
  | .cursorOn => Sys2Proof.Machine.execCursorOn s
  | .cursorOff => Sys2Proof.Machine.execCursorOff s
  | .cursorToggle => Sys2Proof.Machine.execCursorToggle s
  | .blinkOn => Sys2Proof.Machine.execBlinkOn s
  | .blinkOff => Sys2Proof.Machine.execBlinkOff s
  | .blinkToggle => Sys2Proof.Machine.execBlinkToggle s
  | .lcdClear => Sys2Proof.Machine.execLcdClear s
  | .lcdHome ignored => Sys2Proof.Machine.execLcdHome ignored s
  | .lcdEntryMode increment shift => Sys2Proof.Machine.execLcdEntryMode increment shift s
  | .lcdDisplayControl display cursor blink => Sys2Proof.Machine.execLcdDisplayControl display cursor blink s
  | .lcdShift unused => Sys2Proof.Machine.execLcdShift unused s
  | .lcdFunctionSet eightBit twoLine font5x10 ignored => Sys2Proof.Machine.execLcdFunctionSet eightBit twoLine font5x10 ignored s
  | .lcdSetCgramAddr glyph glyphRow => Sys2Proof.Machine.execLcdSetCgramAddr glyph glyphRow s
  | .lcdSetDdramAddr address => Sys2Proof.Machine.execLcdSetDdramAddr address s

end Sys2Proof.Machine
end

