-- ==== Sys2Proof/Machine/Resume.lean ====
section
/-! DEFINITION. An operation in flight: its action list, which is "a pure function of the request word and the state"
(41_framing.md R193), so that it can be gone on with; and hardware reset, which abandons it (70_reset_and_hazards.md R341). -/

namespace Sys2Proof.Machine

/-- The action list of the operation in flight, from the state after its state writes (41_framing.md R190). A command byte
of the controller is no operation of the block. -/
def actionsOf (i : Instr) (s : State) : List Action :=
  match i with
  | .init .. => initActions s
  | .close => closeActions s
  | .clear => clearActions s
  | .home => homeActions s
  | .setCursor row col => setCursorActions row col s
  | .writeRaw code => writeRawActions code s
  | .uploadCustomChar loc pattern => uploadActions loc pattern s
  | .backlightOn | .backlightOff | .backlightToggle => blApplyActions s
  | .displayOn | .displayOff | .displayToggle => dispctlActions s
  | .cursorOn | .cursorOff | .cursorToggle => dispctlActions s
  | .blinkOn | .blinkOff | .blinkToggle => dispctlActions s
  | .lcdClear | .lcdHome _ | .lcdEntryMode .. | .lcdDisplayControl .. | .lcdShift _ => []
  | .lcdFunctionSet .. | .lcdSetCgramAddr .. | .lcdSetDdramAddr _ => []

/-- The abort of an operation (41_framing.md R191; 40_lifecycle_init.md R156 for INIT). -/
def abortOf (i : Instr) : State → State := if i.isInit then abortInit else abortReady

/-- Go on with the operation in flight from the action at `upc` (41_framing.md R190), or from the TClose of INIT's abort. -/
def resume (s : State) : Host.Outcome State Fault Refusal :=
  match decodeRequest s.req with
  | .ok i =>
    if i.isInit && s.closing then .next (closeInit s)
    else .next (run (abortOf i) ((actionsOf i s).drop s.upc) s)
  | .error _ => .fault .lostRequest

/-- The transport write issued and not yet answered, if there is one. -/
def pendingWrite (s : State) : Option Byte :=
  if s.busy && !s.closing then
    match decodeRequest s.req with
    | .ok i =>
      match (actionsOf i s)[s.upc]? with
      | some (.tWrite v) => some v
      | some .tOpen | some .tClose | some (.wait _) | some (.setFsm _) | none => none
    | .error _ => none
  else none

/-- Hardware reset (70_reset_and_hazards.md R340, R341; 10_state.md R50): S takes its reset values, no response is given,
nothing is issued; a write already issued lands or not. The unspecified fields are free. The expander and the controller
are not touched otherwise. DESIGN CHOICE (unsafe, log 24): an answer or a completion is tied to no request, so one that comes
after the reset for a request outstanding at it serves the next action that asks for one. -/
def hardReset (landed : Bool) (s : State) : State :=
  let s' := match pendingWrite s with
    | some v => if landed then drive v s else s
    | none => s
  dropMirror { s' with
    fsm := .uninitialized
    busy := false
    upc := 0
    ioFault := false
    tOpen := false
    closing := false
    req := Config.freeWord s'.draws }

end Sys2Proof.Machine
end

