-- ==== Sys2Proof/Machine/Step.lean ====
section
/-! DEFINITION. One step of the machine: the controller's turn when it has latched a byte, else the next input, else the
operation in flight goes on. -/

namespace Sys2Proof.Machine

/-- The block accepts a request word (60_exceptions.md R303): latch it, decode it (R304), execute it. -/
def accept (w : Word) (s : State) : Host.Outcome State Fault Refusal :=
  let s' := { s with req := w, busy := true }
  match decodeRequest w with
  | .ok i => exec i s'
  | .error _ => .next (respond .illegalRequest s')

/-- The controller executes the byte it has latched. -/
def controllerTurn (rs : Bool) (b : Byte) (s : State) : Host.Outcome State Fault Refusal :=
  let s' := { s with lcd := { s.lcd with ir := none } }
  if rs then .next { s' with lcd := s'.lcd.data s.screen b }
  else
    match decodeCommand b with
    | .ok i => exec i s'
    | .error _ => .next s'

/-- An input of the environment takes effect; an operation in flight that was waiting for it goes on. -/
def envTurn (e : EnvInput) (s : State) : Host.Outcome State Fault Refusal :=
  match e with
  | .reset landed => .next (hardReset landed s)
  | .answers more =>
    let s' := { s with answers := s.answers ++ more }
    if s.busy then resume s' else .next s'
  | .delays n =>
    let s' := { s with delays := s.delays + n }
    if s.busy then resume s' else .next s'
  | .closes n =>
    let s' := { s with closes := s.closes + n }
    if s.busy then resume s' else .next s'

/-- The first input that is not a request, and the inputs without it: what reaches a busy block. -/
def takeEnv : List Input → Option (EnvInput × List Input)
  | [] => none
  | .env e :: l => some (e, l)
  | .request w :: l => (takeEnv l).map fun r => (r.1, .request w :: r.2)

/-- The block's side. A request is accepted only when the block is idle (10_state.md R45): the offers a busy block has not
taken stand, and the environment's other inputs reach it past them. With no input left an idle block runs nothing (R50). -/
def blockTurn (s : State) : Host.Outcome State Fault Refusal :=
  if s.busy then
    match takeEnv s.inbox with
    | some (e, l) => envTurn e { s with inbox := l }
    | none => resume s
  else
    match s.inbox with
    | .request w :: l => accept w { s with inbox := l }
    | .env e :: l => envTurn e { s with inbox := l }
    | [] => .next s

/-- One step. A parameter record that breaks 00_scope.md R10 is refused. -/
def step (s : State) : Host.Outcome State Fault Refusal :=
  if s.params.wf then
    match s.lcd.ir with
    | some (rs, b) => controllerTurn rs b s
    | none => blockTurn s
  else .refused .badParameters

/-- The host's fixed name: `s` with an instruction where step fetches its next one. A request word (96 bits) stands on the
request port, the block idle and the controller with no work left; a command byte (8 bits) stands in the controller's
latch, with register-select 0. -/
def State.withFetchWord (s : State) (nbits w : Nat) : State :=
  if nbits = 8 then { s with lcd := { s.lcd with ir := some (false, BitVec.ofNat 8 w) } }
  else
    { s with
      inbox := .request (BitVec.ofNat 96 w) :: s.inbox
      busy := false
      upc := 0
      lcd := { s.lcd with ir := none } }

end Sys2Proof.Machine
end

