-- ==== Sys2Proof/Machine/Observe.lean ====
section
/-! DEFINITION. Observations of a trace and of an action list: they add no behaviour (41_framing.md R186). -/

namespace Sys2Proof.Machine

/-- The bytes written, in order. -/
def writesOf (t : List Event) : List Byte :=
  t.filterMap fun e => match e with
    | .evWrite v _ => some v
    | .evOpen _ | .evClose | .evWait _ => none

/-- The waits, in order. -/
def waitsOf (t : List Event) : List Delay :=
  t.filterMap fun e => match e with
    | .evWait d => some d
    | .evOpen _ | .evWrite _ _ | .evClose => none

/-- What a write delivers, given the nearest earlier write (41_framing.md R186). -/
def latchOf (p : Params) (prev : Option (Byte × Ack)) (v : Byte) (a : Ack) : List (Bool × Nibble) :=
  match prev with
  | none => []
  | some (v1, a1) =>
    if a1 = .ok ∧ a = .ok ∧ v1 &&& p.enMask ≠ 0 ∧ v &&& p.enMask = 0 then
      [(v1 &&& p.rsMask != 0, hiNibble v1)]
    else []

/-- The latches of a trace (41_framing.md R186), from the nearest earlier write on. -/
def latchesFrom (p : Params) : Option (Byte × Ack) → List Event → List (Bool × Nibble)
  | _, [] => []
  | prev, .evWrite v a :: t => latchOf p prev v a ++ latchesFrom p (some (v, a)) t
  | prev, .evOpen _ :: t => latchesFrom p prev t
  | prev, .evClose :: t => latchesFrom p prev t
  | prev, .evWait _ :: t => latchesFrom p prev t

/-- The latches of a trace (41_framing.md R186). -/
def latches (p : Params) (t : List Event) : List (Bool × Nibble) := latchesFrom p none t

/-- Latched nibbles paired into logical bytes, high nibble first (41_framing.md R186). DESIGN CHOICE (log 21): a byte whose
halves were latched with different register-select bits carries the first half's; R186 does not say. The block never sends
such halves. -/
def pairBytes : List (Bool × Nibble) → List (Bool × Byte)
  | (rs, h) :: (_, n) :: l => (rs, h ++ n) :: pairBytes l
  | [_] => []
  | [] => []

/-- The event of an action that completes without `err` (00_scope.md R15). -/
def okEvent : Action → List Event
  | .tOpen => [.evOpen .ok]
  | .tWrite v => [.evWrite v .ok]
  | .tClose => [.evClose]
  | .wait t => [.evWait t]
  | .setFsm _ => []

/-- The events of an action list when nothing is answered `err`. -/
def okEvents (l : List Action) : List Event := l.flatMap okEvent

/-- How many answers of the transport an action needs (00_scope.md R14). -/
def asks : Action → Nat
  | .tOpen | .tWrite _ => 1
  | .tClose | .wait _ | .setFsm _ => 0

/-- How many answers of the transport an action list needs. -/
def asksOf (l : List Action) : Nat := (l.map asks).sum

/-- How many completions of the delay unit an action needs. -/
def waits : Action → Nat
  | .wait _ => 1
  | .tOpen | .tWrite _ | .tClose | .setFsm _ => 0

/-- How many completions of the delay unit an action list needs. -/
def waitsNeeded (l : List Action) : Nat := (l.map waits).sum

/-- The least time the waits of a trace take, in microseconds (70_reset_and_hazards.md R361). -/
def waitMicros (p : Params) (t : List Event) : Nat := ((waitsOf t).map (Delay.micros p)).sum

end Sys2Proof.Machine
end

