-- ==== Sys2Proof/Machine/Pseudo.lean ====
section
/-! DEFINITION. The pseudo-operations (30_encoding.md R131, 44_text_output.md R244 to R248): the host's expansions into
requests, and how the host issues them one after the other. -/

namespace Sys2Proof.Machine

/-- The pseudo-operations. They have no opcode and no row of the table (R131). -/
inductive Pseudo where
  | write (text : List Byte)
  | print (text : List Byte) (row col : Byte)
  | printRaw (code row col : Byte)
deriving DecidableEq, Repr

/-- The expansion (R244, R246, R248). -/
def Pseudo.expand : Pseudo → List Instr
  | .write text => text.map .writeRaw
  | .print text row col => .setCursor row col :: text.map .writeRaw
  | .printRaw code row col => [.setCursor row col, .writeRaw code]

/-- How a sequence of requests ends for the host. -/
inductive HostEnd where
  /-- All requests that were issued have their response; this is the first that is not `OK`, else `OK`. -/
  | finished (r : Response) (s : State)
  /-- A request is in flight without a response: the environment has not answered. -/
  | waiting (s : State)
  | faulted (f : Fault)
  | refused (r : Refusal)
deriving DecidableEq, Repr

/-- "The host issues the next request only after the response to the previous one, and stops at the first response that is
not `OK`, which is the result" (R244). -/
def issueAll : List Instr → State → HostEnd
  | [], s => .finished .ok s
  | i :: is, s =>
    match accept (encodeRequest i) s with
    | .next t =>
      if t.busy then .waiting t
      else
        match t.responses.getLast? with
        | some .ok => issueAll is t
        | some r => .finished r t
        | none => .waiting t
    | .fault f => .faulted f
    | .refused r => .refused r

/-- The host issues every request of a list after the response to the one before, WHATEVER that response is: the requests that
were answered, with their responses, and how it ends. -/
def issueEach : List Instr → State → List (Instr × Response) × HostEnd
  | [], s => ([], .finished .ok s)
  | i :: is, s =>
    match accept (encodeRequest i) s with
    | .next t =>
      if t.busy then ([], .waiting t)
      else
        match t.responses.getLast? with
        | some r => ((i, r) :: (issueEach is t).1, (issueEach is t).2)
        | none => ([], .waiting t)
    | .fault f => ([], .faulted f)
    | .refused r => ([], .refused r)

/-- A pseudo-operation, issued by the host. -/
def issue (p : Pseudo) (s : State) : HostEnd := issueAll p.expand s

end Sys2Proof.Machine
end

