-- ==== Sys2Proof/Safety.lean ====
section
/-! DEFINITION. What claims are stated in: the machine's invariant, the controller in step with the block, the host's
duties (70_reset_and_hazards.md R350 to R359), and the spec's own account of what an operation leaves in the trace. -/

namespace Sys2Proof.Machine

/-! Outcomes. -/

/-- A safe step: it neither faults nor is refused. -/
def Safe (o : Host.Outcome State Fault Refusal) : Prop := ∃ t, o = .next t

/-! What the environment gives, and what an operation ends with. -/

/-- The transport answers the next `n` requests `ok`, the delay unit completes the next `m` waits; `rest` and `d` are what
is left after that. -/
def Serves (n m : Nat) (s : State) (rest : List Answer) (d : Nat) : Prop :=
  s.answers = List.replicate n .ok ++ rest ∧ s.delays = m + d

/-- The operation ended with a response, the block is idle and no request of it is outstanding (10_state.md R46, R37). -/
def Ended (r : Response) (s t : State) : Prop :=
  t.responses = s.responses ++ [r] ∧ t.busy = false ∧ t.upc = 0 ∧ t.closing = false

/-- What no operation but INIT and CLOSE changes: the lifecycle, the geometry, the configuration, the host's offers, the
completions of TClose to come. -/
def SameLife (s t : State) : Prop :=
  t.fsm = s.fsm ∧ t.tOpen = s.tOpen ∧ t.cols = s.cols ∧ t.rows = s.rows ∧ t.font = s.font ∧ t.params = s.params ∧ t.inbox = s.inbox ∧ t.closes = s.closes

/-- The expander and the controller are unchanged. -/
def SameBoard (s t : State) : Prop := t.out = s.out ∧ t.lcd = s.lcd

/-- Every byte of both the controller's memories reads as before. -/
def SameMemory (s t : State) : Prop :=
  (∀ a, t.lcd.ddramAt a = s.lcd.ddramAt a) ∧ (∀ a, t.lcd.cgram.read a = s.lcd.cgram.read a)

/-- An operation turned away: nothing happens but the response (60_exceptions.md R301, R304, R305). The request latch is free,
as it is after every response (10_state.md R38, 93_implementation_defined.md U2). -/
def turnedAway (r : Response) (s : State) : State :=
  { s with
    responses := s.responses ++ [r]
    busy := false
    upc := 0
    closing := false
    req := Config.freeWord s.draws
    draws := s.draws + 1 }

/-- Every word of opcode `op` but the legal ones is answered `IllegalRequest`, without any other effect (30_encoding.md R107,
60_exceptions.md R304). -/
def NoOtherWord (op : Byte) (legal : Word → Prop) : Prop :=
  ∀ w s, Word.op w = op → ¬ legal w → accept w s = .next (turnedAway .illegalRequest s)

/-- `w` is the one word of opcode `op`, and `i` its operation (30_encoding.md R101, format `N`, R105). -/
def OneWord (op : Byte) (w : Word) (i : Instr) : Prop :=
  (∀ v, decodeRequest v = .ok i ↔ v = w) ∧ NoOtherWord op fun v => v = w

/-! The spec's account of the trace, from the formulas of 30_encoding.md R104 and 41_framing.md R182, R184. -/

/-- The three events of one nibble, given as the high half of a byte. -/
def nibbleTrace (p : Params) (bl : Bool) (high : Byte) (rs : Bool) : List Event :=
  let c := (if bl then p.blMask else 0) ||| (if rs then p.rsMask else 0)
  [.evWrite (c ||| p.enMask ||| high) .ok, .evWrite (c ||| high) .ok, .evWait .settle]

/-- The six events of one logical byte, high nibble first. -/
def sendTrace (p : Params) (bl : Bool) (v : Byte) (rs : Bool) : List Event :=
  nibbleTrace p bl (v &&& 0xF0) rs ++ nibbleTrace p bl (v <<< 4) rs

/-- The display-control byte of R114. -/
def dispctlByte (p : Params) (dc : BitVec 3) : Byte :=
  p.cmdDispctl ||| (if dc.getLsbD 2 then p.dcDisplay else 0) ||| (if dc.getLsbD 1 then p.dcCursor else 0) |||
  (if dc.getLsbD 0 then p.dcBlink else 0)

/-- The 41 events of a successful INIT (40_lifecycle_init.md R153). -/
def initTrace (p : Params) (rows : Byte) (font bl0 : Bool) : List Event :=
  [.evOpen .ok, .evWait .powerOn] ++
  nibbleTrace p bl0 0x30 false ++ [.evWait .boot1] ++
  nibbleTrace p bl0 0x30 false ++ [.evWait .boot2] ++
  nibbleTrace p bl0 0x30 false ++ nibbleTrace p bl0 0x20 false ++
  sendTrace p bl0 (p.cmdFuncset ||| p.fs4bit ||| (if rows = 1 then p.fs1line else p.fs2line) |||
    (if font then p.fs5x10 else p.fs5x8)) false ++
  sendTrace p bl0 (p.cmdDispctl ||| p.dcDisplay) false ++
  sendTrace p bl0 (p.cmdEntry ||| p.entryInc) false ++
  sendTrace p bl0 p.cmdClear false ++ [.evWait .clear]

/-- The 17 operations that `Ready` alone takes (60_exceptions.md R305): all but INIT and CLOSE. -/
def isReadyOp (i : Instr) : Bool := i.isRequest && !i.isInit && i != .close

/-- How many answers of the transport a trace needs (00_scope.md R14). -/
def asksIn (t : List Event) : Nat :=
  t.countP fun e => match e with
    | .evOpen _ | .evWrite _ _ => true
    | .evClose | .evWait _ => false

/-- How many completions of the delay unit a trace needs. -/
def waitsIn (t : List Event) : Nat := (waitsOf t).length

/-- From `s`, when the environment serves all of it, `exec i s` ANSWERS A NEXT STATE: the response is `OK`, the trace has
grown by exactly `tr`, `S.bl` and `S.dc` are `bl` and `dc`, `X.out` is the last byte written, and every other field of the
block is as it was but the request latch, which is free while the block is idle (10_state.md R38, 93_implementation_defined.md
U2). -/
def Completes (i : Instr) (bl : Bool) (dc : BitVec 3) (tr : List Event) (s : State) : Prop :=
  ∀ rest d, Serves (asksIn tr) (waitsIn tr) s rest d →
    ∃ t, exec i s = .next t ∧ Ended .ok s t ∧ t.answers = rest ∧ t.delays = d ∧ t.trace = s.trace ++ tr ∧
      t.bl = bl ∧ t.dc = dc ∧ t.ioFault = s.ioFault ∧ t.draws = s.draws + 1 ∧ SameLife s t ∧
      t.out = (writesOf tr).getLastD s.out ∧ (writesOf tr = [] → t.lcd = s.lcd)

/-- From `s`, when a write `v` of `tr` is answered `err`, the operation ends there (41_framing.md R191, R193): the response
is `IOError`, the trace has what came before and the failed write, the sticky flag is set, `S.bl` and `S.dc` are `bl` and
`dc` all the same, and `X.out` is `v` or what it was, as the environment has it. -/
def CutShort (i : Instr) (bl : Bool) (dc : BitVec 3) (tr : List Event) (s : State) : Prop :=
  ∀ before v after reached rest d, tr = before ++ .evWrite v .ok :: after →
    s.answers = List.replicate (asksIn before) .ok ++ .err reached :: rest → s.delays = waitsIn before + d →
    ∃ t, exec i s = .next t ∧ Ended .ioError s t ∧ t.answers = rest ∧ t.delays = d ∧
      t.trace = s.trace ++ before ++ [.evWrite v .err] ∧ t.bl = bl ∧ t.dc = dc ∧ t.ioFault = true ∧ t.draws = s.draws + 1 ∧
      SameLife s t ∧ t.out = if reached then v else (writesOf before).getLastD s.out

/-- An operation of `Ready` does `tr`: it completes with it, and an `err` cuts it short. -/
def Does (i : Instr) (bl : Bool) (dc : BitVec 3) (tr : List Event) (s : State) : Prop :=
  Completes i bl dc tr s ∧ CutShort i bl dc tr s

/-- What a backlight operation leaves in the trace (45_toggles.md R265). -/
def backlightTrace (p : Params) (bl : Bool) (dc : BitVec 3) : List Event :=
  match p.blApply with
  | .resendDc => sendTrace p bl (dispctlByte p dc) false
  | .bareWrite => [.evWrite (if bl then p.blMask else 0) .ok]
  | .none => []

/-- The controller's line count, font and entry mode are unchanged. -/
def SameSettings (s t : State) : Prop :=
  t.lcd.twoLine = s.lcd.twoLine ∧ t.lcd.font5x10 = s.lcd.font5x10 ∧ t.lcd.increment = s.lcd.increment ∧
  t.lcd.shift = s.lcd.shift

/-- The controller's registers but the display-control bits and the pointer are unchanged: its settings, and the display's
position. -/
def SameRegisters (s t : State) : Prop := SameSettings s t ∧ t.lcd.window = s.lcd.window

/-- What a claim about the display takes as its premise (93_implementation_defined.md U3, U13): a handle in `Ready`, the
command literals and masks R120 and R10 ask for, and a controller in step. -/
def InStep (s : State) : Prop :=
  s.fsm = .ready ∧ s.params.masksWf = true ∧ s.params.stdCommands = true ∧ s.lcd.bus = .fourBit none ∧ s.lcd.ir = none

/-- The operation that the toggle group's structure names (30_encoding.md R106): target, then action (0 on, 1 off, else
toggle). -/
def groupOp (target action : BitVec 2) : Instr :=
  if target = 0 then if action = 0 then .backlightOn else if action = 1 then .backlightOff else .backlightToggle
  else if target = 1 then if action = 0 then .displayOn else if action = 1 then .displayOff else .displayToggle
  else if target = 2 then if action = 0 then .cursorOn else if action = 1 then .cursorOff else .cursorToggle
  else if action = 0 then .blinkOn else if action = 1 then .blinkOff else .blinkToggle

/-- What a valid INIT asks for: columns 16 or 20, and the row count and font together (40_lifecycle_init.md R151). -/
def ValidSetup (cols rows : Byte) (font : Nibble) : Prop :=
  (cols = 16 ∨ cols = 20) ∧ (rows = 1 ∧ (font = 0 ∨ font = 1) ∨ (rows = 2 ∨ rows = 4) ∧ font = 0)

/-! The invariant. -/

/-- `S.fsm` while INIT is at action `k` (40_lifecycle_init.md R154). -/
def handshakeFsm (k : Nat) : Fsm :=
  if k ≤ 2 then .uninitialized else if k ≤ 17 then .eightBitBoot else if k ≤ 24 then .fourBitLatched else .configured

/-- A legal geometry and font (10_state.md R34). -/
def legalGeometry (s : State) : Prop :=
  (s.cols = 16 ∨ s.cols = 20) ∧ (s.rows = 1 ∨ s.rows = 2 ∨ s.rows = 4) ∧ (s.font = true → s.rows = 1)

/-- What holds of an operation in flight between steps: its word is in the latch, `upc` is inside its list, the lifecycle
stands where that action leaves it (10_state.md R37, R38, R33). CLOSE stands at its TClose, issued; INIT may stand at the TClose
of its abort, issued after some action but the first; no other operation has one (41_framing.md R192). -/
def InFlight (s : State) : Prop :=
  ∃ i, decodeRequest s.req = .ok i ∧ s.upc < (actionsOf i s).length ∧
    (i.isInit = true → s.fsm = handshakeFsm s.upc ∧ s.tOpen = decide (0 < s.upc) ∧ legalGeometry s ∧
      (s.closing = true → 0 < s.upc)) ∧
    (i.isInit = false → s.fsm = .ready ∧ s.closing = decide (i = .close) ∧ (i = .close → s.upc = 0))

/-- The machine's invariant. -/
structure Inv (s : State) : Prop where
  /-- The controller's memories are in canonical form, within their address spaces (20_memory.md R71, R72). -/
  ddramWf : s.lcd.ddram.wf = true ∧ s.lcd.ddram.within 128 = true
  cgramWf : s.lcd.cgram.wf = true ∧ s.lcd.cgram.within 64 = true
  /-- An idle block's sequencer stands at 0 (10_state.md R37). -/
  idleUpc : s.busy = false → s.upc = 0
  /-- The handshake's states are held only while an operation is in flight (10_state.md R33). -/
  transit : s.fsm = .eightBitBoot ∨ s.fsm = .fourBitLatched ∨ s.fsm = .configured → s.busy = true
  /-- A handle owns an open transport (10_state.md R40). -/
  openHandle : s.fsm.hasHandle = true → s.tOpen = true
  /-- A TClose is outstanding only within an operation (41_framing.md R190, R192). -/
  closing : s.closing = true → s.busy = true
  /-- No handle and nothing in flight: no transport is owned (10_state.md R40). -/
  shutIdle : s.busy = false → s.fsm.hasHandle = false → s.tOpen = false
  /-- A handle has a legal geometry and font (10_state.md R34). -/
  geometry : s.fsm.hasHandle = true → legalGeometry s
  /-- An operation in flight is one. -/
  flight : s.busy = true → InFlight s

/-- The enable bit of a byte. -/
def enableHigh (p : Params) (v : Byte) : Bool := v &&& p.enMask != 0

/-- While no IOError has happened since INIT, enable is low between operations (10_state.md R44), and high within one only
when the next action is the write that lowers it (41_framing.md R183). INIT's first actions, before its first write, and its
abort, after a write that failed, are left out: the line may stand anyhow there (R340, 60_exceptions.md R311). -/
def EnableQuiet (s : State) : Prop :=
  s.ioFault = false → (s.busy = false → s.fsm = .ready → enableHigh s.params s.out = false) ∧
    (s.busy = true → ∀ i, decodeRequest s.req = .ok i → (i.isInit = true ∧ (s.upc ≤ 3 ∨ s.closing = true)) ∨
      enableHigh s.params s.out = false ∨ ∃ v, (actionsOf i s)[s.upc]? = some (.tWrite v) ∧ enableHigh s.params v = false)

/-- The controller is in 4-bit mode at a byte boundary with no work left: what INIT establishes (R343). -/
def Synced (s : State) : Prop := s.lcd.bus = .fourBit none ∧ s.lcd.ir = none

/-! What the block can see. -/

/-- An answer as the block sees it. -/
def Answer.seen : Answer → Answer
  | .ok => .ok
  | .err _ => .err false

/-- A state less everything the block cannot read: the expander, the controller, and whether failed writes land. -/
def blind (s : State) : State :=
  { s with out := 0, lcd := Lcd.reset, answers := s.answers.map Answer.seen }

/-- Two outcomes the block cannot tell apart. -/
def sameToBlock : Host.Outcome State Fault Refusal → Host.Outcome State Fault Refusal → Prop
  | .next s, .next t => blind s = blind t
  | .fault f, .fault g => f = g
  | .refused f, .refused g => f = g
  | _, _ => False

/-! The host's duties, as predicates over the operations answered so far (R350, R358, R353). -/

/-- R350: between an UPLOAD_CUSTOM_CHAR and the next WRITE_RAW there is a SET_CURSOR that answered `OK`. -/
def cgramSafe : Bool → List (Instr × Response) → Bool
  | _, [] => true
  | pending, (i, r) :: l =>
    match i, r with
    | .uploadCustomChar .., .ok => cgramSafe true l
    | .setCursor .., .ok => cgramSafe false l
    | .writeRaw _, .ok => !pending && cgramSafe pending l
    | _, _ => cgramSafe pending l

/-- Whether, after these answered operations, a CLOSE would be one after a CLOSE that answered `OK` with no INIT that answered
`OK` since (R358), given whether it would have been before them. -/
def closedAfter : Bool → List (Instr × Response) → Bool
  | closed, [] => closed
  | closed, (i, r) :: l =>
    match i, r with
    | .close, .ok => closedAfter true l
    | .init .., .ok => closedAfter false l
    | _, _ => closedAfter closed l

end Sys2Proof.Machine
end

