-- ==== Sys2Proof/Certificates/Slice0/Obligations.lean ====
section
/-! DEFINITION. The statements for the provers. Each docstring names the rules of spec/ it rests on. -/

open Sys2Proof Sys2Proof.Machine

/-! Encoding. -/

/-- Decoding an encoded well-formed instruction gives it back, with every operand at every value (30_encoding.md R100 to R102,
R105, R120). -/
def Obligations.DecodeOfEncode : Prop := ∀ i : Instr, i.wf = true → decode (encode i) = .ok i

/-- Each code has one meaning: a code that decodes is the encoding of what it decodes to, so every operand bit is read and
every reserved bit is zero; and a request word decodes to an operation of the block, a command byte to a command. -/
def Obligations.EncodeOfDecode : Prop :=
  ∀ c i, decode c = .ok i → i.wf = true ∧ encode i = c ∧
    i.isRequest = (match c with | .request _ => true | .command _ => false)

/-- The legal request words are exactly those that a row of the opcode table takes (match under mask), and no word is taken by
two rows (30_encoding.md R105, R107). -/
def Obligations.LegalWords : Prop :=
  ∀ w : Word, ((∃ i, decodeRequest w = .ok i) ↔ ∃ r ∈ requestRows, r.takes w = true) ∧
    (requestRows.filter fun r => r.takes w).length ≤ 1

/-- 30_encoding.md R106: in the group 0x20 to 0x2F the opcode is 0x2, target, action; action 3 is no operation. -/
def Obligations.ToggleGroup : Prop :=
  ∀ target action : BitVec 2,
    decodeRequest (packN (0x2#4 ++ (target ++ action))) =
      if action = 3 then .error .unknownOpcode else .ok (groupOp target action)

/-- 30_encoding.md R120: the highest set bit names the command. (R120 is general knowledge of the spec's, not its source's.) -/
def Obligations.CommandByHighestBit : Prop :=
  ∀ b : Byte, decodeCommand b =
    if 0x80 ≤ b then .ok (.lcdSetDdramAddr (b.setWidth 7))
    else if 0x40 ≤ b then .ok (.lcdSetCgramAddr ((b >>> 3).setWidth 3) (b.setWidth 3))
    else if 0x20 ≤ b then .ok (.lcdFunctionSet (b &&& 0x10 != 0) (b &&& 0x08 != 0) (b &&& 0x04 != 0) (b.setWidth 2))
    else if 0x10 ≤ b then .ok (.lcdShift (b.setWidth 4))
    else if 0x08 ≤ b then .ok (.lcdDisplayControl (b &&& 0x04 != 0) (b &&& 0x02 != 0) (b &&& 0x01 != 0))
    else if 0x04 ≤ b then .ok (.lcdEntryMode (b &&& 0x02 != 0) (b &&& 0x01 != 0))
    else if 0x02 ≤ b then .ok (.lcdHome (b.setWidth 1))
    else if b = 0x01 then .ok .lcdClear
    else .error .noCommand

/-- The spec's own worked request words and command bytes decode to what they stand for (R158, R160, R210, R212, R214, R234,
R240, R262 to R274; R110 to R117). -/
def Obligations.WorkedWordsDecode : Prop :=
  decodeRequest 0x011002010000000000000000 = .ok (.init 16 2 0 true) ∧
  decodeRequest 0x020000000000000000000000 = .ok .close ∧
  decodeRequest 0x120105000000000000000000 = .ok (.setCursor 1 5) ∧
  decodeRequest 0x130000480000000000000000 = .ok (.writeRaw 0x48) ∧
  decodeRequest 0x14010000040E1F0404040400 =
    .ok (.uploadCustomChar 1 [0x04, 0x0E, 0x1F, 0x04, 0x04, 0x04, 0x04, 0x00]) ∧
  decodeRequest 0x220000000000000000000000 = .ok .backlightToggle ∧
  decodeRequest 0x2D0000000000000000000000 = .ok .blinkOff ∧
  decodeRequest 0x230000000000000000000000 = .error .unknownOpcode ∧
  decodeRequest 0x120105010000000000000000 = .error .reservedNotZero ∧
  decodeCommand 0x0C = .ok (.lcdDisplayControl true false false) ∧
  decodeCommand 0x06 = .ok (.lcdEntryMode true false) ∧
  decodeCommand 0x28 = .ok (.lcdFunctionSet false true false 0) ∧
  decodeCommand 0x48 = .ok (.lcdSetCgramAddr 1 0) ∧
  decodeCommand 0xC5 = .ok (.lcdSetDdramAddr 0x45)

/-! One step. -/

/-- A step of an idle block with a legal request word at its port latches the word and executes its instruction
(60_exceptions.md R303, 10_state.md R38, R45). -/
def Obligations.StepRunsRequest : Prop :=
  ∀ (s : State) w l i, s.params.wf = true → s.lcd.ir = none → s.busy = false → s.inbox = .request w :: l →
    decodeRequest w = .ok i → step s = exec i { s with inbox := l, req := w, busy := true }

/-- A step of a controller that has latched a command byte executes its instruction; a data byte goes where the pointer points;
the byte is taken off the latch (30_encoding.md R118, R120; 41_framing.md R186); 0x00, no command, does nothing else (log 20).
When the controller does this work is the model's choice (log 14). -/
def Obligations.StepRunsCommand : Prop :=
  ∀ (s : State) b, s.params.wf = true →
    (∀ i, s.lcd.ir = some (false, b) → decodeCommand b = .ok i →
      step s = exec i { s with lcd := { s.lcd with ir := none } }) ∧
    (s.lcd.ir = some (false, b) → (∀ i, decodeCommand b ≠ .ok i) → step s = .next { s with lcd := { s.lcd with ir := none } }) ∧
    (s.lcd.ir = some (true, b) → step s = .next { s with lcd := { s.lcd with ir := none }.data s.screen b })

/-- 60_exceptions.md R304: an accepted word that no row of the table takes gets code 4, in every lifecycle state, and nothing
else happens: no action (no answer is used), no event, no field of S. (The latch is free, as after every response: R38, 93 U2.) -/
def Obligations.IllegalRequestHasNoEffect : Prop :=
  Response.code .illegalRequest = 4 ∧
  ∀ (s : State) w l, s.params.wf = true → s.lcd.ir = none → s.busy = false → s.inbox = .request w :: l →
    (∀ r ∈ requestRows, r.takes w = false) →
    step s = .next { s with
      inbox := l, responses := s.responses ++ [.illegalRequest], busy := false, upc := 0, closing := false
      req := Config.freeWord s.draws, draws := s.draws + 1 }

/-- 00_scope.md R9, R10: which parameter records are well-formed (the bounds of R10, and the two boot delays at the fixed values
of R9), and that the machine refuses every other. -/
def Obligations.BadParametersAreRefused : Prop :=
  (∀ p : Params, p.wf = true ↔
    (∀ m ∈ [p.rsMask, p.enMask, p.blMask], m = 0x01 ∨ m = 0x02 ∨ m = 0x04 ∨ m = 0x08) ∧
    p.rsMask ≠ p.enMask ∧ p.rsMask ≠ p.blMask ∧ p.enMask ≠ p.blMask ∧
    30000 ≤ p.tPowerOn ∧ p.tBoot1 = 5000 ∧ p.tBoot2 = 100 ∧ 40 ≤ p.tSettle ∧ 2000 ≤ p.tClear ∧
    (p.cmdFuncset ||| p.fs4bit) >>> 4 = 0x2 ∧ (p.cmdFuncset ||| p.fs8bit) >>> 4 = 0x3) ∧
  ∀ s : State, s.params.wf = false → step s = .refused .badParameters

/-- 10_state.md R50: the reset values the spec gives, and the default parameters are well-formed. The other fields of
`State.reset` are the model's choice (logs 5, 6). -/
def Obligations.ResetValues : Prop :=
  State.reset.fsm.code = 0 ∧ State.reset.busy = false ∧ State.reset.upc = 0 ∧ State.reset.ioFault = false ∧
  State.reset.tOpen = false ∧ State.reset.params.wf = true

/-- 10_state.md R50: the block runs nothing until the host sends a request. -/
def Obligations.IdleRunsNothing : Prop :=
  ∀ s : State, s.params.wf = true → s.lcd.ir = none → s.busy = false → s.inbox = [] → step s = .next s

/-- 70_reset_and_hazards.md R340, R341: hardware reset, idle or in flight. S takes its reset values, no action is issued, no
response is given. Neither the expander nor the controller is touched, but by the write already issued and not answered, if it is
a write that stands at `upc`: that one lands as the transport has it, and then the controller latches if it takes the enable line
from 1 to 0 (20_memory.md R81). The model's choices (log 24): a write that lands does so in the reset's own step; the block
forgets an outstanding TClose; the answers and completions to come stand, tied to no request. That the host's offers stand is its
choice too (log 35). -/
def Obligations.HardwareReset : Prop :=
  ∀ (s : State) landed l, s.params.wf = true → s.lcd.ir = none → s.inbox = .env (.reset landed) :: l →
    ∃ t, step s = .next t ∧ t.fsm = .uninitialized ∧ t.busy = false ∧ t.upc = 0 ∧ t.ioFault = false ∧ t.tOpen = false ∧
      t.closing = false ∧ t.params = s.params ∧ t.inbox = l ∧ t.answers = s.answers ∧ t.delays = s.delays ∧
      t.closes = s.closes ∧ t.trace = s.trace ∧ t.responses = s.responses ∧
      (s.busy = false → SameBoard s t) ∧ (s.closing = true → SameBoard s t) ∧
      ∀ i, s.busy = true → s.closing = false → decodeRequest s.req = .ok i →
        (∀ v, (actionsOf i s)[s.upc]? = some (.tWrite v) →
          (landed = false → SameBoard s t) ∧
          (landed = true → t.out = v ∧
            t.lcd = if enableHigh s.params s.out && !enableHigh s.params v then
                s.lcd.latch (s.out &&& s.params.rsMask != 0) (hiNibble s.out)
              else s.lcd)) ∧
        ((∀ v, (actionsOf i s)[s.upc]? ≠ some (.tWrite v)) → SameBoard s t)

/-- 41_framing.md R192, 70_reset_and_hazards.md R359: while the answer or the completion that the action at `upc` needs does
not come, the machine stands still, for any number of steps: the operation never ends and `S.busy` stays 1. So it is at a TOpen,
a TWrite, a Wait, and at a TClose once issued: CLOSE's, and that of INIT's abort. -/
def Obligations.HangsWithoutAnswer : Prop :=
  ∀ (s : State) i (k : Nat), s.params.wf = true → s.lcd.ir = none → s.busy = true → (∀ e, .env e ∉ s.inbox) →
    decodeRequest s.req = .ok i →
    (∀ a, s.closing = false → (actionsOf i s)[s.upc]? = some a →
      asks a = 1 ∧ s.answers = [] ∨ waits a = 1 ∧ s.delays = 0 → Sys2Proof.core.run k s = .next s) ∧
    (s.closing = true → s.closes = 0 → i.isInit = true ∨ i = .close ∧ s.upc = 0 → Sys2Proof.core.run k s = .next s)

/-- 41_framing.md R190, R193: an operation that had to stop for want of an answer and goes on later does what it would have
done had the answers been there at once. So the one big step of `exec` is the action-by-action execution. -/
def Obligations.ResumeIsOneRun : Prop :=
  ∀ (s t : State) i more n c, i.isRequest = true → decodeRequest s.req = .ok i → exec i s = .next t → t.busy = true →
    resume { t with answers := t.answers ++ more, delays := t.delays + n, closes := t.closes + c } =
      exec i { s with answers := s.answers ++ more, delays := s.delays + n, closes := s.closes + c }

/-! INIT and CLOSE. -/

/-- INIT COMPLETES (40_lifecycle_init.md R152, R153, R158): with a valid geometry and font, from Uninitialized and from Closed,
when every request is answered `ok`, the trace grows by exactly the 41 events of the handshake, the state is `Ready` with the
transport open and the mirror set, and the response is `OK`. -/
def Obligations.InitCompletes : Prop :=
  ∀ (s : State) cols rows font bl0 rest d, s.fsm = .uninitialized ∨ s.fsm = .closed → ValidSetup cols rows font →
    Serves 25 16 s rest d →
    ∃ t, exec (.init cols rows font bl0) s = .next t ∧ Ended .ok s t ∧ t.answers = rest ∧ t.delays = d ∧
      t.trace = s.trace ++ initTrace s.params rows (font == 1) bl0 ∧ t.fsm = .ready ∧ t.tOpen = true ∧ t.ioFault = false ∧
      t.cols = cols ∧ t.rows = rows ∧ t.font = (font == 1) ∧ t.bl = bl0 ∧ t.dc = 0b100 ∧
      t.params = s.params ∧ t.inbox = s.inbox ∧ t.draws = s.draws + 1 ∧
      t.out = (if bl0 then s.params.blMask else 0) ||| (s.params.cmdClear <<< 4)

/-- 40_lifecycle_init.md R151: an invalid INIT is turned away before any bus I/O, and nothing else happens. -/
def Obligations.InitInvalidArgument : Prop :=
  ∀ (s : State) cols rows (font : Nibble) bl0, s.fsm = .uninitialized ∨ s.fsm = .closed →
    (cols ≠ 16 ∧ cols ≠ 20 ∨ rows ≠ 1 ∧ rows ≠ 2 ∧ rows ≠ 4 ∨ font ≠ 0 ∧ font ≠ 1 ∨ font = 1 ∧ rows ≠ 1) →
    exec (.init cols rows font bl0) s = .next (turnedAway .invalidArgument s)

/-- INIT ABORTS (40_lifecycle_init.md R156): on an `err` to the open nothing follows; on an `err` to any of the 24 writes one
`EvClose` follows and the transport is shut. Either way the block is then Uninitialized, idle, with the sticky flag set and the
response `IOError`. (What the mirrored fields and the latch then hold is free: R42, R38, 93 U2.) While the transport does not
complete that TClose, the block waits at it (41_framing.md R192), still in INIT, its transport still open; that the event is
recorded and the transport shut when the TClose COMPLETES is the model's reading of R190 and R40 (log 26). -/
def Obligations.InitAborts : Prop :=
  ∀ (s : State) cols rows font bl0, s.fsm = .uninitialized ∨ s.fsm = .closed → ValidSetup cols rows font →
    (∀ reached rest, s.answers = .err reached :: rest →
      ∃ t, exec (.init cols rows font bl0) s = .next t ∧ Ended .ioError s t ∧ t.answers = rest ∧ t.delays = s.delays ∧
        t.closes = s.closes ∧ t.trace = s.trace ++ [.evOpen .err] ∧ t.fsm = .uninitialized ∧ t.ioFault = true ∧
        t.tOpen = s.tOpen ∧ t.params = s.params ∧ t.inbox = s.inbox ∧ SameBoard s t) ∧
    ∀ before v after reached rest d, initTrace s.params rows (font == 1) bl0 = before ++ .evWrite v .ok :: after →
      s.answers = List.replicate (asksIn before) .ok ++ .err reached :: rest → s.delays = waitsIn before + d →
      ∃ t, exec (.init cols rows font bl0) s = .next t ∧ t.answers = rest ∧ t.delays = d ∧
        t.params = s.params ∧ t.inbox = s.inbox ∧
        (t.out = if reached then v else (writesOf before).getLastD s.out) ∧
        (∀ c, s.closes = c + 1 → Ended .ioError s t ∧ t.closes = c ∧ t.fsm = .uninitialized ∧ t.ioFault = true ∧
          t.trace = s.trace ++ before ++ [.evWrite v .err, .evClose] ∧ t.tOpen = false) ∧
        (s.closes = 0 → t.closing = true ∧ t.busy = true ∧ t.closes = 0 ∧ t.responses = s.responses ∧ t.ioFault = false ∧
          t.trace = s.trace ++ before ++ [.evWrite v .err] ∧ t.tOpen = true ∧ t.fsm.hasHandle = true ∧ t.req = s.req)

/-- 70_reset_and_hazards.md R343: from ANY state of the controller and the expander (8-bit, 4-bit, half-way through a byte,
unknown) a successful INIT leaves the controller in 4-bit mode at a byte boundary, line count and font latched, display on,
cursor and blink off, entry mode increment without shift, the screen cleared, the pointer at the first location; and the
expander with enable 0 and the backlight bit as asked. (It rests on R120, R155, R186 and R211, which are general knowledge of
the spec's, and on the model's choices of logs 12, 13 and 33: what the nibbles of the handshake do to a controller in a mode that
is not known, and that a function-set sets the interface width and the nibble phase.) -/
def Obligations.InitFromAnyController : Prop :=
  ∀ (s : State) cols rows font bl0 rest d, s.fsm = .uninitialized ∨ s.fsm = .closed → ValidSetup cols rows font →
    s.params.masksWf = true → s.params.stdCommands = true → Serves 25 16 s rest d →
    ∃ t, exec (.init cols rows font bl0) s = .next t ∧ Synced t ∧
      t.lcd.twoLine = (rows != 1) ∧ t.lcd.font5x10 = (font == 1) ∧ t.lcd.dc = 0b100 ∧ t.lcd.dc = t.dc ∧
      t.lcd.increment = true ∧ t.lcd.shift = false ∧ t.lcd.ptr = .ddram 0 ∧ (∀ a, t.lcd.ddramAt a = .emptied) ∧
      t.out &&& t.params.enMask = 0 ∧ (t.out &&& t.params.blMask != 0) = bl0

/-- 60_exceptions.md R305, the table's `NotReady` entries: INIT outside Uninitialized and Closed, CLOSE outside Ready and Closed,
the other 17 outside Ready. Nothing happens but the response. -/
def Obligations.NotReadyTable : Prop :=
  ∀ s : State,
    (∀ cols rows font bl0, s.fsm ≠ .uninitialized → s.fsm ≠ .closed →
      exec (.init cols rows font bl0) s = .next (turnedAway .notReady s)) ∧
    (s.fsm ≠ .ready → s.fsm ≠ .closed → exec .close s = .next (turnedAway .notReady s)) ∧
    ∀ i, isReadyOp i = true → s.fsm ≠ .ready → exec i s = .next (turnedAway .notReady s)

/-- CLOSE COMPLETES (40_lifecycle_init.md R160): from Ready, when the transport completes its TClose (41_framing.md R192), and
never failing, it leaves `EvClose`, shuts the transport, is Closed, and writes nothing: the expander and the controller stay as
they were, `S.io_fault` keeps its value. (What the mirrored fields and the latch then hold is free: R42, R38, 93 U2.) While the
transport does not complete it, CLOSE waits at its TClose, in Ready, its transport still open (R40); that the event is recorded
and the transport shut when the TClose COMPLETES is the model's reading of R190 and R40 (log 26), and how many TClose the
transport completes is an input of the model's (log 1). -/
def Obligations.CloseCompletes : Prop :=
  OneWord 0x02 0x020000000000000000000000 .close ∧
  (∀ (s : State) c, s.fsm = .ready → s.closes = c + 1 →
    ∃ t, exec .close s = .next t ∧ Ended .ok s t ∧ t.trace = s.trace ++ [.evClose] ∧ t.fsm = .closed ∧ t.tOpen = false ∧
      t.ioFault = s.ioFault ∧ SameBoard s t ∧ t.answers = s.answers ∧ t.delays = s.delays ∧ t.closes = c ∧
      t.params = s.params ∧ t.inbox = s.inbox) ∧
  ∀ s : State, s.fsm = .ready → s.closes = 0 →
    exec .close s = .next { s with closing := true, busy := true, upc := 0 }

/-- 40_lifecycle_init.md R161. -/
def Obligations.CloseUninitialized : Prop :=
  ∀ s : State, s.fsm = .uninitialized → exec .close s = .next (turnedAway .notReady s)

/-- 40_lifecycle_init.md R162: a double close is a fault that ends the run: no response, no event, no next state. An INIT from
Closed is no double close: every one is accepted (it runs, or it is turned away for its operands). -/
def Obligations.DoubleCloseFaults : Prop :=
  ∀ s : State, s.fsm = .closed →
    exec .close s = .fault .doubleClose ∧
    ∀ cols rows font bl0, ∃ t, exec (.init cols rows font bl0) s = .next t ∧ t ≠ turnedAway .notReady s

/-! The 17 operations of Ready. `Does` says both how an operation COMPLETES (its conclusion is `exec i s = .next t`) and how an
`err` cuts it short; it holds the frame of every field of the block. -/

/-- 42_screen_cursor.md R210. -/
def Obligations.ClearRule : Prop :=
  OneWord 0x10 0x100000000000000000000000 .clear ∧
  ∀ s : State,
    (s.fsm ≠ .ready → exec .clear s = .next (turnedAway .notReady s)) ∧
    (s.fsm = .ready →
      Does .clear s.bl s.dc (sendTrace s.params s.bl s.params.cmdClear false ++ [.evWait .clear]) s)

/-- 42_screen_cursor.md R212. -/
def Obligations.HomeRule : Prop :=
  OneWord 0x11 0x110000000000000000000000 .home ∧
  ∀ s : State,
    (s.fsm ≠ .ready → exec .home s = .next (turnedAway .notReady s)) ∧
    (s.fsm = .ready →
      Does .home s.bl s.dc (sendTrace s.params s.bl s.params.cmdHome false ++ [.evWait .home]) s)

/-- 42_screen_cursor.md R214. -/
def Obligations.SetCursorRule : Prop :=
  (∀ w row col, decodeRequest w = .ok (.setCursor row col) ↔ w = packWord 0x12 row col 0 0) ∧
  NoOtherWord 0x12 (fun w => ∃ row col, w = packWord 0x12 row col 0 0) ∧
  ∀ (s : State) row col,
    (s.fsm ≠ .ready → exec (.setCursor row col) s = .next (turnedAway .notReady s)) ∧
    (s.fsm = .ready → s.cols ≤ col ∨ s.rows ≤ row →
      exec (.setCursor row col) s = .next (turnedAway .invalidArgument s)) ∧
    (s.fsm = .ready → s.rows ≤ 4 → col < s.cols → row < s.rows →
      Does (.setCursor row col) s.bl s.dc
        (sendTrace s.params s.bl
          ((if row = 0 then 0x80 else if row = 1 then 0xC0 else if row = 2 then 0x94 else 0xD4) + col) false) s)

/-- 44_text_output.md R240. -/
def Obligations.WriteRawRule : Prop :=
  (∀ w code, decodeRequest w = .ok (.writeRaw code) ↔ w = packWord 0x13 0 0 code 0) ∧
  NoOtherWord 0x13 (fun w => ∃ code, w = packWord 0x13 0 0 code 0) ∧
  ∀ (s : State) code,
    (s.fsm ≠ .ready → exec (.writeRaw code) s = .next (turnedAway .notReady s)) ∧
    (s.fsm = .ready → Does (.writeRaw code) s.bl s.dc (sendTrace s.params s.bl code true) s)

/-- 43_custom_char.md R230: one address command for the location masked to 3 bits, then the eight pattern bytes, unchanged; and
that these nine bytes, and no others, are what the expander's lines deliver. -/
def Obligations.UploadRule : Prop :=
  (∀ w loc p0 p1 p2 p3 p4 p5 p6 p7,
    decodeRequest w = .ok (.uploadCustomChar loc [p0, p1, p2, p3, p4, p5, p6, p7]) ↔
      w = packWord 0x14 loc 0 0 (p0 ++ p1 ++ p2 ++ p3 ++ p4 ++ p5 ++ p6 ++ p7)) ∧
  NoOtherWord 0x14 (fun w => ∃ loc p, w = packWord 0x14 loc 0 0 p) ∧
  ∀ (s : State) (loc : Byte) (pattern : List Byte),
    let tr := sendTrace s.params s.bl (0x40 ||| ((loc &&& 0x7) <<< 3)) false ++
      pattern.flatMap fun b => sendTrace s.params s.bl b true
    (s.fsm ≠ .ready → exec (.uploadCustomChar loc pattern) s = .next (turnedAway .notReady s)) ∧
    (s.fsm = .ready → pattern.length = 8 →
      Does (.uploadCustomChar loc pattern) s.bl s.dc tr s ∧
      (writesOf tr).length = 36 ∧ waitsOf tr = List.replicate 18 .settle ∧
      (s.params.masksWf = true → pairBytes (latches s.params tr) =
        (false, (0x40 ||| ((loc &&& 0x7) <<< 3) : Byte)) :: pattern.map fun b => (true, b)))

/-- 45_toggles.md R262, R263, R264, under every value of `BL_APPLY`. -/
def Obligations.BacklightRules : Prop :=
  OneWord 0x20 0x200000000000000000000000 .backlightOn ∧
  OneWord 0x21 0x210000000000000000000000 .backlightOff ∧
  OneWord 0x22 0x220000000000000000000000 .backlightToggle ∧
  ∀ s : State, s.fsm = .ready →
    Does .backlightOn true s.dc (backlightTrace s.params true s.dc) s ∧
    Does .backlightOff false s.dc (backlightTrace s.params false s.dc) s ∧
    Does .backlightToggle (!s.bl) s.dc (backlightTrace s.params (!s.bl) s.dc) s ∧
    exec .backlightToggle s = exec (if s.bl then .backlightOff else .backlightOn) s

/-- 45_toggles.md R266, R267, R268: `S.dc[2]`, and the other two bits kept and re-sent. -/
def Obligations.DisplayRules : Prop :=
  OneWord 0x24 0x240000000000000000000000 .displayOn ∧
  OneWord 0x25 0x250000000000000000000000 .displayOff ∧
  OneWord 0x26 0x260000000000000000000000 .displayToggle ∧
  ∀ s : State, s.fsm = .ready →
    let dc := fun b : BitVec 1 => b ++ s.dc.extractLsb' 0 2
    let tr := fun b : BitVec 1 => sendTrace s.params s.bl (dispctlByte s.params (dc b)) false
    Does .displayOn s.bl (dc 1) (tr 1) s ∧ Does .displayOff s.bl (dc 0) (tr 0) s ∧
    Does .displayToggle s.bl (dc (~~~s.dc.extractLsb' 2 1)) (tr (~~~s.dc.extractLsb' 2 1)) s ∧
    exec .displayToggle s = exec (if s.dc.getLsbD 2 then .displayOff else .displayOn) s

/-- 45_toggles.md R269, R270, R271: `S.dc[1]`, and the other two bits kept and re-sent. -/
def Obligations.CursorRules : Prop :=
  OneWord 0x28 0x280000000000000000000000 .cursorOn ∧
  OneWord 0x29 0x290000000000000000000000 .cursorOff ∧
  OneWord 0x2A 0x2A0000000000000000000000 .cursorToggle ∧
  ∀ s : State, s.fsm = .ready →
    let dc := fun b : BitVec 1 => s.dc.extractLsb' 2 1 ++ (b ++ s.dc.extractLsb' 0 1)
    let tr := fun b : BitVec 1 => sendTrace s.params s.bl (dispctlByte s.params (dc b)) false
    Does .cursorOn s.bl (dc 1) (tr 1) s ∧ Does .cursorOff s.bl (dc 0) (tr 0) s ∧
    Does .cursorToggle s.bl (dc (~~~s.dc.extractLsb' 1 1)) (tr (~~~s.dc.extractLsb' 1 1)) s ∧
    exec .cursorToggle s = exec (if s.dc.getLsbD 1 then .cursorOff else .cursorOn) s

/-- 45_toggles.md R272, R273, R274: `S.dc[0]`, and the other two bits kept and re-sent. -/
def Obligations.BlinkRules : Prop :=
  OneWord 0x2C 0x2C0000000000000000000000 .blinkOn ∧
  OneWord 0x2D 0x2D0000000000000000000000 .blinkOff ∧
  OneWord 0x2E 0x2E0000000000000000000000 .blinkToggle ∧
  ∀ s : State, s.fsm = .ready →
    let dc := fun b : BitVec 1 => s.dc.extractLsb' 1 2 ++ b
    let tr := fun b : BitVec 1 => sendTrace s.params s.bl (dispctlByte s.params (dc b)) false
    Does .blinkOn s.bl (dc 1) (tr 1) s ∧ Does .blinkOff s.bl (dc 0) (tr 0) s ∧
    Does .blinkToggle s.bl (dc (~~~s.dc.extractLsb' 0 1)) (tr (~~~s.dc.extractLsb' 0 1)) s ∧
    exec .blinkToggle s = exec (if s.dc.getLsbD 0 then .blinkOff else .blinkOn) s

/-- 45_toggles.md R276: two toggles of one target in a row give the mirrored bit back, and off after on and on after off leave
0 and 1, whatever the transport answered, as long as the first of the two has ended. -/
def Obligations.ToggleRoundTrips : Prop :=
  ∀ (s t u : State) i j, s.fsm = .ready → exec i s = .next t → t.busy = false → exec j t = .next u →
    ((i, j) = (.backlightToggle, .backlightToggle) → u.bl = s.bl ∧ u.dc = s.dc) ∧
    ((i, j) ∈ [(.displayToggle, .displayToggle), (.cursorToggle, .cursorToggle), (.blinkToggle, .blinkToggle)] →
      u.dc = s.dc ∧ u.bl = s.bl) ∧
    ((i, j) = (.backlightOn, .backlightOff) → u.bl = false) ∧ ((i, j) = (.backlightOff, .backlightOn) → u.bl = true) ∧
    ((i, j) = (.displayOn, .displayOff) → u.dc.getLsbD 2 = false) ∧ ((i, j) = (.displayOff, .displayOn) → u.dc.getLsbD 2 = true) ∧
    ((i, j) = (.cursorOn, .cursorOff) → u.dc.getLsbD 1 = false) ∧ ((i, j) = (.cursorOff, .cursorOn) → u.dc.getLsbD 1 = true) ∧
    ((i, j) = (.blinkOn, .blinkOff) → u.dc.getLsbD 0 = false) ∧ ((i, j) = (.blinkOff, .blinkOn) → u.dc.getLsbD 0 = true)

/-- Only INIT and CLOSE move the lifecycle, the geometry and the transport; only the backlight operations write `S.bl`, only the
display, cursor and blink operations `S.dc`: of the 17 operations, in EVERY outcome, complete, aborted, in flight or turned
away (10_state.md R33 to R36, R40; 41_framing.md R191). In flight the latch keeps the word (R38); with the response it is free
(93 U2), and no other free value of the block's is drawn. -/
def Obligations.LifecycleFrame : Prop :=
  ∀ (s t : State) i, isReadyOp i = true → exec i s = .next t →
    SameLife s t ∧ t.closing = false ∧ (t.busy = true → t.req = s.req) ∧ (t.draws = s.draws + if t.busy then 0 else 1) ∧
    (i ∉ [.backlightOn, .backlightOff, .backlightToggle] → t.bl = s.bl) ∧
    (i ∉ [.displayOn, .displayOff, .displayToggle, .cursorOn, .cursorOff, .cursorToggle, .blinkOn, .blinkOff, .blinkToggle] →
      t.dc = s.dc)

/-! Framing. -/

/-- 41_framing.md R182, R184: the action lists of `writeNibble` and `send`, given as the bytes themselves, and the events of a
byte sent. -/
def Obligations.SendActions : Prop :=
  ∀ (p : Params) bl rs,
    let c := (if bl then p.blMask else 0) ||| (if rs then p.rsMask else 0)
    (∀ n : Nibble, writeNibble p bl n rs =
      [.tWrite (c ||| p.enMask ||| (n.setWidth 8 <<< 4)), .tWrite (c ||| (n.setWidth 8 <<< 4)), .wait .settle]) ∧
    ∀ v : Byte,
      send p bl v rs = writeNibble p bl (hiNibble v) rs ++ writeNibble p bl (loNibble v) rs ∧
      send p bl v rs =
        [.tWrite (c ||| p.enMask ||| (v &&& 0xF0)), .tWrite (c ||| (v &&& 0xF0)), .wait .settle,
         .tWrite (c ||| p.enMask ||| (v <<< 4)), .tWrite (c ||| (v <<< 4)), .wait .settle] ∧
      okEvents (send p bl v rs) = sendTrace p bl v rs

/-- 41_framing.md R183, R185, 30_encoding.md R103: of the four writes of a byte, the first and third have the enable bit set
and no other; register-select and backlight are the same in all four; the unused control bit is 0; the high nibble comes
first. -/
def Obligations.SendControlBits : Prop :=
  ∀ (p : Params) bl (v : Byte) rs, p.masksWf = true →
    let ws := writesOf (sendTrace p bl v rs)
    ws.map (fun x => x &&& p.enMask != 0) = [true, false, true, false] ∧
    ws.map (fun x => x &&& p.rsMask != 0) = List.replicate 4 rs ∧
    ws.map (fun x => x &&& p.blMask != 0) = List.replicate 4 bl ∧
    ws.map (fun x => x &&& 0x0F &&& ~~~(p.enMask ||| p.rsMask ||| p.blMask)) = List.replicate 4 0 ∧
    ws.map hiNibble = [hiNibble v, hiNibble v, loNibble v, loNibble v]

/-- 41_framing.md R186: what the controller latches of any bytes sent one after the other are those bytes, with their
register-select bits, in order. -/
def Obligations.LatchesDeliverTheBytes : Prop :=
  ∀ (p : Params) bl (l : List (Bool × Byte)), p.masksWf = true →
    pairBytes (latches p (l.flatMap fun x => sendTrace p bl x.2 x.1)) = l

/-- 30_encoding.md R110, R111, R114 to R117, R123, 42_screen_cursor.md R216: the command bytes at the default parameters; a
set-address byte is the row's base of R117 plus the column, never wraps and keeps bit 7, and the twenty columns of the four rows
have eighty different addresses. -/
def Obligations.CommandBytes : Prop :=
  cbClear Params.default = 0x01 ∧ cbHome Params.default = 0x02 ∧
  (∀ dc : BitVec 3, cbDispctl Params.default dc = 0x08 ||| dc.setWidth 8) ∧
  cbFuncset Params.default 1 false = 0x20 ∧ cbFuncset Params.default 1 true = 0x24 ∧
  cbFuncset Params.default 2 false = 0x28 ∧ cbFuncset Params.default 4 false = 0x28 ∧
  cbEntry Params.default = 0x06 ∧
  (∀ loc : Byte, (cbCgram loc).toNat = 0x40 + 8 * (loc.toNat % 8)) ∧
  (∀ x ∈ [((0 : Byte), 0x80), (1, 0xC0), (2, 0x94), (3, 0xD4)], ∀ col : Byte, col < 20 →
    (cbDdram x.1 col).toNat = x.2 + col.toNat ∧ 0x80 ≤ cbDdram x.1 col ∧ cbDdram x.1 col ≤ 0xE7) ∧
  (∀ row ∈ [0, 1, 2, 3], ∀ row' ∈ [0, 1, 2, 3], ∀ col col' : BitVec 5, col < 20 → col' < 20 →
    screenAddr row (col.setWidth 8) = screenAddr row' (col'.setWidth 8) → row = row' ∧ col = col')

/-! What reaches the controller. These rest on R120, R186, R211 and R350, which are general knowledge of the spec's. -/

/-- 42_screen_cursor.md R211: CLEAR empties every display location and puts the pointer at the first; glyphs stay. That the
registers stay too, the entry mode and the display's position among them, is the model's choice (log 32). -/
def Obligations.ClearEmptiesTheScreen : Prop :=
  ∀ (s : State) rest d, InStep s → Serves 4 3 s rest d →
    ∃ t, exec .clear s = .next t ∧ Synced t ∧ (∀ a, t.lcd.ddramAt a = .emptied) ∧ t.lcd.ptr = .ddram 0 ∧
      (∀ a, t.lcd.cgram.read a = s.lcd.cgram.read a) ∧ SameRegisters s t ∧ t.lcd.dc = s.lcd.dc

/-- 70_reset_and_hazards.md R350: HOME puts the pointer back into DDRAM; both memories stay. The model's choices: the address is
free and the display's position stays (log 18), the other registers stay (log 32). -/
def Obligations.HomeKeepsTheScreen : Prop :=
  ∀ (s : State) rest d, InStep s → Serves 4 3 s rest d →
    ∃ t, exec .home s = .next t ∧ Synced t ∧ (∃ a, t.lcd.ptr = .ddram a) ∧ SameMemory s t ∧ SameRegisters s t ∧
      t.lcd.dc = s.lcd.dc

/-- 42_screen_cursor.md R216, 20_memory.md R71: SET_CURSOR puts the pointer at row and column; nothing else changes. -/
def Obligations.SetCursorPoints : Prop :=
  ∀ (s : State) row col rest d, InStep s → legalGeometry s → row < s.rows → col < s.cols → Serves 4 2 s rest d →
    ∃ t, exec (.setCursor row col) s = .next t ∧ Synced t ∧
      t.lcd.ptr = .ddram
        ((if row = 0 then 0x00 else if row = 1 then 0x40 else if row = 2 then 0x14 else 0x54) + col.setWidth 7) ∧
      SameMemory s t ∧ SameRegisters s t ∧ t.lcd.dc = s.lcd.dc

/-- 44_text_output.md R240, R241 (c): WRITE_RAW stores its byte at the pointer, in the memory the pointer points into, and no
other location of either memory changes, whatever the entry mode. With increment the pointer steps by one within the screen's
columns and within a glyph. The model's choices: where else the DDRAM pointer goes is free, in DDRAM (log 16); at a glyph's last
row the pointer stays, as R233 has it after an upload, and without increment it is free, in CGRAM (log 17); every DDRAM address,
past the visible columns too, is a location of its own (log 36); all eight bits of a glyph's byte are stored (log 31); without
the shift bit the display's position stays, with it it is free (log 19). -/
def Obligations.WriteRawStores : Prop :=
  ∀ (s : State) code rest d, InStep s → Serves 4 2 s rest d →
    ∃ t, exec (.writeRaw code) s = .next t ∧ Synced t ∧ SameSettings s t ∧ t.lcd.dc = s.lcd.dc ∧
      (s.lcd.shift = false → t.lcd.window = s.lcd.window) ∧
      (∀ a, s.lcd.ptr = .ddram a →
        t.lcd.ddramAt a = .code code ∧ (∀ a', a' ≠ a → t.lcd.ddramAt a' = s.lcd.ddramAt a') ∧
        (∀ k, t.lcd.cgram.read k = s.lcd.cgram.read k) ∧
        (∃ a', t.lcd.ptr = .ddram a') ∧
        (∀ row col : Byte, s.lcd.increment = true → legalGeometry s → row < s.rows → col.toNat + 1 < s.cols.toNat →
          a = screenAddr row col → t.lcd.ptr = .ddram (a + 1))) ∧
      (∀ a, s.lcd.ptr = .cgram a →
        t.lcd.cgram.read a.toNat = some code ∧ (∀ k, k ≠ a.toNat → t.lcd.cgram.read k = s.lcd.cgram.read k) ∧
        (∀ a', t.lcd.ddramAt a' = s.lcd.ddramAt a') ∧
        (∃ a', t.lcd.ptr = .cgram a') ∧
        (s.lcd.increment = true → t.lcd.ptr = .cgram (if a.extractLsb' 0 3 = 7 then a else a + 1)))

/-- 43_custom_char.md R230, R232, R233, 20_memory.md R72, 44_text_output.md R241 (a): with increment, an upload stores the eight
bytes as the rows of the glyph numbered by the low three bits of the location, no other glyph changes, and a display location
that holds that number (a code below 8) shows the low five bits of each, and the pointer "is left at the final CGRAM row" of
that glyph (R233; that the final row is the glyph's, log 17); in any entry mode no display location changes and the pointer is
left in CGRAM. The model's choices: without increment the pointer is free there (log 17); all eight bits of each byte are stored
(log 31); with the shift bit the display's position is free (log 19). -/
def Obligations.UploadStoresTheGlyph : Prop :=
  ∀ (s : State) loc pattern rest d, InStep s → pattern.length = 8 → Serves 36 18 s rest d →
    ∃ t, exec (.uploadCustomChar loc pattern) s = .next t ∧ Synced t ∧ SameSettings s t ∧ t.lcd.dc = s.lcd.dc ∧
      (s.lcd.shift = false → t.lcd.window = s.lcd.window) ∧
      (∀ a, t.lcd.ddramAt a = s.lcd.ddramAt a) ∧ (∃ a, t.lcd.ptr = .cgram a) ∧
      (s.lcd.increment = true →
        (∃ a, t.lcd.ptr = .cgram a ∧ a.toNat = 8 * (loc.toNat % 8) + 7) ∧
        (∀ k < 8, t.lcd.cgram.read (8 * (loc.toNat % 8) + k) = pattern[k]?) ∧
        (∀ k, k < 8 * (loc.toNat % 8) ∨ 8 * (loc.toNat % 8) + 8 ≤ k → t.lcd.cgram.read k = s.lcd.cgram.read k) ∧
        (∀ a, t.lcd.ddramAt a = .code (loc &&& 7) →
          ∀ row : BitVec 3, t.lcd.dots a row = (pattern[row.toNat]?).map fun b => b.setWidth 5))

/-- 45_toggles.md R260, R275: after a display, cursor or blink operation the controller's three display-control bits are the
mirrored ones, whatever they were before; nothing else of it changes. -/
def Obligations.DisplayControlReachesTheController : Prop :=
  ∀ (s : State) i rest d, InStep s → Serves 4 2 s rest d →
    i ∈ [.displayOn, .displayOff, .displayToggle, .cursorOn, .cursorOff, .cursorToggle, .blinkOn, .blinkOff, .blinkToggle] →
    ∃ t, exec i s = .next t ∧ Synced t ∧ t.lcd.dc = t.dc ∧ t.lcd.ptr = s.lcd.ptr ∧ SameMemory s t ∧ SameRegisters s t

/-- 45_toggles.md R265: a backlight operation under `resend_dc` and `bare_write` puts the new bit on the expander's line; under
`none` it writes nothing; the controller's memories, pointer and registers stay, and its display-control bits become the
mirrored ones under `resend_dc` (the same, if they were in step) and stay otherwise. -/
def Obligations.BacklightReachesTheBoard : Prop :=
  ∀ (s : State) i b rest d, InStep s → s.out &&& s.params.enMask = 0 →
    (i, b) ∈ [(.backlightOn, true), (.backlightOff, false), (.backlightToggle, !s.bl)] →
    Serves (asksIn (backlightTrace s.params b s.dc)) (waitsIn (backlightTrace s.params b s.dc)) s rest d →
    ∃ t, exec i s = .next t ∧ Synced t ∧ t.lcd.ptr = s.lcd.ptr ∧ SameMemory s t ∧ SameRegisters s t ∧
      t.out &&& t.params.enMask = 0 ∧
      (s.params.blApply = .resendDc → (t.out &&& t.params.blMask != 0) = b ∧ t.lcd.dc = s.dc) ∧
      (s.params.blApply = .bareWrite → (t.out &&& t.params.blMask != 0) = b ∧ t.lcd = s.lcd) ∧
      (s.params.blApply = .none → SameBoard s t)

/-- 44_text_output.md R246: PRINT, when the text does not run past the end of the row (93_implementation_defined.md U5), ends
`OK` in any entry mode and changes no glyph; with increment it puts the text into the display locations of the screen from row
and column on, and changes no other. (The model's choices: within the columns and rows of the screen the pointer steps by one,
elsewhere it is free, log 16; and every DDRAM address, off the visible columns too, is a location of its own, log 36.) -/
def Obligations.PrintShowsTheText : Prop :=
  ∀ (s : State) text row (col : Byte) rest d, InStep s → legalGeometry s → row < s.rows → col < s.cols →
    col.toNat + text.length ≤ s.cols.toNat → Serves (4 + 4 * text.length) (2 + 2 * text.length) s rest d →
    ∃ t, issue (.print text row col) s = .finished .ok t ∧ Synced t ∧
      t.responses = s.responses ++ List.replicate (1 + text.length) .ok ∧
      (∀ a, t.lcd.cgram.read a = s.lcd.cgram.read a) ∧
      (s.lcd.increment = true →
        (∀ k, (h : k < text.length) → t.lcd.charAt row (col + BitVec.ofNat 8 k) = .code text[k]) ∧
        (∀ a, (∀ k < text.length, a ≠ screenAddr row (col + BitVec.ofNat 8 k)) → t.lcd.ddramAt a = s.lcd.ddramAt a))

/-- 44_text_output.md R246: when SET_CURSOR answers `InvalidArgument`, no WRITE_RAW is issued and nothing at all has been
written. -/
def Obligations.PrintInvalidWritesNothing : Prop :=
  ∀ (s : State) text row col, s.fsm = .ready → s.cols ≤ col ∨ s.rows ≤ row →
    ∃ t, issue (.print text row col) s = .finished .invalidArgument t ∧ t.trace = s.trace ∧ SameBoard s t ∧
      t.answers = s.answers ∧ t.responses = s.responses ++ [.invalidArgument]

/-! The controller's commands as instructions. They rest on R120, R72, R211 and R350, general knowledge of the spec's. -/

/-- The commands that set a register or the pointer COMPLETE with exactly that; nothing else of the machine changes
(30_encoding.md R112, R114 to R117, R120; 20_memory.md R71, R72). A function-set also sets the interface width and with it the
nibble phase (log 33). -/
def Obligations.LcdRegisterCommands : Prop :=
  ∀ s : State,
    (∀ increment shift, exec (.lcdEntryMode increment shift) s =
      .next { s with lcd := { s.lcd with increment := increment, shift := shift } }) ∧
    (∀ display cursor blink, ∃ dc : BitVec 3, exec (.lcdDisplayControl display cursor blink) s =
        .next { s with lcd := { s.lcd with dc := dc } } ∧
      dc.getLsbD 2 = display ∧ dc.getLsbD 1 = cursor ∧ dc.getLsbD 0 = blink) ∧
    (∀ eightBit twoLine font5x10 ignored, exec (.lcdFunctionSet eightBit twoLine font5x10 ignored) s =
      .next { s with lcd := { s.lcd with
        bus := if eightBit then .eightBit else .fourBit none, twoLine := twoLine, font5x10 := font5x10 } }) ∧
    (∀ glyph glyphRow : BitVec 3, ∃ a : BitVec 6, exec (.lcdSetCgramAddr glyph glyphRow) s =
        .next { s with lcd := { s.lcd with ptr := .cgram a } } ∧ a.toNat = 8 * glyph.toNat + glyphRow.toNat) ∧
    (∀ address, exec (.lcdSetDdramAddr address) s = .next { s with lcd := { s.lcd with ptr := .ddram address } })

/-- LCD_CLEAR COMPLETES: every display location is emptied, the pointer is at the first. LCD_HOME COMPLETES: the pointer is in
DDRAM, at a free address (log 18). LCD_SHIFT COMPLETES: the pointer and the display's position are free (log 19). Nothing else of
the machine changes; that LCD_CLEAR keeps the entry mode and the display's position is the model's choice (log 32), and that
LCD_HOME keeps the display's position too (log 18). -/
def Obligations.LcdMovingCommands : Prop :=
  ∀ s : State,
    (∃ l, exec .lcdClear s = .next { s with lcd := l } ∧ (∀ a, l.ddramAt a = .emptied) ∧
      l = { s.lcd with ddram := l.ddram, emptied := l.emptied, ptr := .ddram 0 }) ∧
    (∀ ignored, ∃ a n, exec (.lcdHome ignored) s = .next { s with lcd := { s.lcd with ptr := .ddram a, draws := n } }) ∧
    (∀ unused, ∃ p w n, exec (.lcdShift unused) s =
      .next { s with lcd := { s.lcd with ptr := p, window := w, draws := n } })

/-! Whole-machine rules. -/

/-- Both invariants hold at reset. -/
def Obligations.InvAtReset : Prop := Inv State.reset ∧ EnableQuiet State.reset

/-- EVERY STEP KEEPS THE INVARIANT: canonical memories, an idle sequencer at 0, handshake states only in flight, an open
transport with every handle and none without one when idle, a legal geometry, and an operation in flight that is one (10_state.md
R33, R34, R37, R38, R40; 41_framing.md R190, R192). That a handle keeps its open transport while a TClose is outstanding, shut
only when it completes, is the model's reading (log 26). -/
def Obligations.InvKept : Prop := ∀ s t : State, Inv s → step s = .next t → Inv t

/-- EVERY STEP KEEPS ENABLE LOW: as long as no IOError has happened since INIT, `X.out` has the enable bit 0 between operations,
and 1 within one only when the next action is the write that clears it (10_state.md R44; 41_framing.md R183). -/
def Obligations.EnableQuietKept : Prop :=
  ∀ s t : State, Inv s → EnableQuiet s → step s = .next t → EnableQuiet t

/-- The only fault is the double close (40_lifecycle_init.md R162, R358), raised by a CLOSE word accepted in Closed, and the only
refusal that of ill-formed parameters (R10). -/
def Obligations.OnlyDoubleCloseFaults : Prop :=
  ∀ s : State, Inv s →
    (∀ f, step s = .fault f →
      f = .doubleClose ∧ s.fsm = .closed ∧ s.busy = false ∧
        ∃ l, s.inbox = .request 0x020000000000000000000000 :: l) ∧
    ∀ r, step s = .refused r → s.params.wf = false

/-- THE BLOCK LEARNS NOTHING FROM THE DISPLAY (00_scope.md R7, 20_memory.md R70): two states that agree on all but the expander,
the controller and whether failed writes land, still agree on all of that after the block's turn. -/
def Obligations.BlockIgnoresTheController : Prop :=
  ∀ s t : State, blind s = blind t → sameToBlock (blockTurn s) (blockTurn t)

/-- Every step only adds to the trace, gives at most one response, which frees the block (10_state.md R46), and never touches the
parameters. -/
def Obligations.OutputsOnlyGrow : Prop :=
  ∀ s t : State, step s = .next t →
    t.params = s.params ∧ (∃ tr, t.trace = s.trace ++ tr) ∧
    (t.responses = s.responses ∨ ∃ r, t.responses = s.responses ++ [r] ∧ t.busy = false)

/-- 10_state.md R40: no byte is written unless the transport is open, or is opened by that very step. -/
def Obligations.WritesNeedAnOpenTransport : Prop :=
  ∀ (s t : State) tr, Inv s → step s = .next t → t.trace = s.trace ++ tr → writesOf tr ≠ [] →
    s.tOpen = true ∨ tr.head? = some (.evOpen .ok)

/-- 70_reset_and_hazards.md R358: however the operations are answered, and whatever the host does after an answer that is not
`OK`, a sequence of operations faults the machine only at a CLOSE that follows a CLOSE that answered `OK` without an INIT that
answered `OK` between (or that meets a block closed from the start). All before it have been answered. So a host that keeps R358
never meets the fault. -/
def Obligations.NoDoubleCloseNoFault : Prop :=
  ∀ (s : State) is h f, (∀ i ∈ is, i.wf = true) → issueEach is s = (h, .faulted f) →
    f = .doubleClose ∧ h.map Prod.fst = is.take h.length ∧ is[h.length]? = some .close ∧
      closedAfter (decide (s.fsm = .closed)) h = true

/-- 70_reset_and_hazards.md R350: a host that puts a SET_CURSOR between every upload and the next WRITE_RAW has every WRITE_RAW
meet the pointer in DDRAM, through any sequence of operations answered `OK`, lifecycle operations included. It rests on the
model's choices that the pointer stays in DDRAM past a row (log 16) and on those about an INIT from a controller in step (log
33). -/
def Obligations.HostDutyKeepsTheGlyphs : Prop :=
  ∀ (s t : State) before code after a0, Inv s → s.busy = false → s.params.masksWf = true → s.params.stdCommands = true →
    Synced s → s.out &&& s.params.enMask = 0 → s.lcd.ptr = .ddram a0 →
    (∀ i ∈ before, i.wf = true) →
    cgramSafe false ((before ++ .writeRaw code :: after).map fun i => (i, .ok)) = true →
    issueAll (before ++ .writeRaw code :: after) s = .finished .ok t →
    ∃ u a, issueAll before s = .finished .ok u ∧ u.lcd.ptr = .ddram a

/-- 10_state.md R48, R42: what the status port shows; with a handle, the mirrored fields themselves. -/
def Obligations.StatusPortShows : Prop :=
  ∀ s : State, (statusPort s).fsm = s.fsm.code ∧ (statusPort s).ioFault = s.ioFault ∧ (statusPort s).tOpen = s.tOpen ∧
    (statusPort s).idle = !s.busy ∧
    (s.fsm ∈ [.eightBitBoot, .fourBitLatched, .configured, .ready] →
      (statusPort s).cols = s.cols ∧ (statusPort s).rows = s.rows ∧ (statusPort s).font = s.font ∧
      (statusPort s).bl = s.bl ∧ (statusPort s).dc = s.dc)

/-- 70_reset_and_hazards.md R361: INIT's waits, in order, and the least time they take: 37.58 ms by the lower bounds, 57.7 ms by
the defaults. -/
def Obligations.InitWaits : Prop :=
  ∀ (p : Params) rows font bl0,
    waitsOf (initTrace p rows font bl0) =
      [.powerOn, .settle, .boot1, .settle, .boot2] ++ List.replicate 10 .settle ++ [.clear] ∧
    (writesOf (initTrace p rows font bl0)).length = 24 ∧
    (p.wf = true → 37580 ≤ waitMicros p (initTrace p rows font bl0)) ∧
    waitMicros Params.default (initTrace Params.default rows font bl0) = 57700
end

