-- ==== Sys2Proof/Laws/Encoding.lean ====
section
/-! SUPPORT. The fields of a request word, packed and read back (30_encoding.md R100, R102, 20_memory.md R76). -/

namespace Sys2Proof

theorem toNat_append_add {n m : Nat} (x : BitVec n) (y : BitVec m) : (x ++ y).toNat = x.toNat * 2 ^ m + y.toNat := by
  rw [BitVec.toNat_append, ← Nat.shiftLeft_add_eq_or_of_lt y.isLt, Nat.shiftLeft_eq]

theorem packWord_toNat (op a b c : Byte) (p : BitVec 64) :
    (packWord op a b c p).toNat =
      op.toNat * 2 ^ 88 + a.toNat * 2 ^ 80 + b.toNat * 2 ^ 72 + c.toNat * 2 ^ 64 + p.toNat := by
  have h : (packWord op a b c p).toNat = (op ++ a ++ b ++ c ++ p : BitVec (8 + 8 + 8 + 8 + 64)).toNat := rfl
  rw [h, toNat_append_add, toNat_append_add, toNat_append_add, toNat_append_add]
  ring

theorem packWord_op (op a b c : Byte) (p : BitVec 64) : Word.op (packWord op a b c p) = op := by
  apply BitVec.eq_of_toNat_eq
  simp only [Word.op, Word.byteAt, BitVec.extractLsb'_toNat, packWord_toNat, Nat.shiftRight_eq_div_pow]
  omega
theorem packWord_a (op a b c : Byte) (p : BitVec 64) : Word.a (packWord op a b c p) = a := by
  apply BitVec.eq_of_toNat_eq
  simp only [Word.a, Word.byteAt, BitVec.extractLsb'_toNat, packWord_toNat, Nat.shiftRight_eq_div_pow]
  omega
theorem packWord_b (op a b c : Byte) (p : BitVec 64) : Word.b (packWord op a b c p) = b := by
  apply BitVec.eq_of_toNat_eq
  simp only [Word.b, Word.byteAt, BitVec.extractLsb'_toNat, packWord_toNat, Nat.shiftRight_eq_div_pow]
  omega
theorem packWord_c (op a b c : Byte) (p : BitVec 64) : Word.c (packWord op a b c p) = c := by
  apply BitVec.eq_of_toNat_eq
  simp only [Word.c, Word.byteAt, BitVec.extractLsb'_toNat, packWord_toNat, Nat.shiftRight_eq_div_pow]
  omega
theorem packWord_p (op a b c : Byte) (p : BitVec 64) : Word.p (packWord op a b c p) = p := by
  apply BitVec.eq_of_toNat_eq
  simp only [Word.p, BitVec.extractLsb'_toNat, packWord_toNat, Nat.shiftRight_eq_div_pow]
  omega

theorem packWord_fields (w : Word) : packWord (Word.op w) (Word.a w) (Word.b w) (Word.c w) (Word.p w) = w := by
  apply BitVec.eq_of_toNat_eq
  rw [packWord_toNat]
  simp only [Word.op, Word.a, Word.b, Word.c, Word.p, Word.byteAt, BitVec.extractLsb'_toNat, Nat.shiftRight_eq_div_pow]
  have := w.isLt
  omega

theorem packPattern_toNat (b0 b1 b2 b3 b4 b5 b6 b7 : Byte) :
    (packPattern [b0, b1, b2, b3, b4, b5, b6, b7]).toNat =
      b0.toNat * 2 ^ 56 + b1.toNat * 2 ^ 48 + b2.toNat * 2 ^ 40 + b3.toNat * 2 ^ 32 + b4.toNat * 2 ^ 24 +
      b5.toNat * 2 ^ 16 + b6.toNat * 2 ^ 8 + b7.toNat := by
  have h : (packPattern [b0, b1, b2, b3, b4, b5, b6, b7]).toNat =
    (b0 ++ b1 ++ b2 ++ b3 ++ b4 ++ b5 ++ b6 ++ b7 : BitVec (8 + 8 + 8 + 8 + 8 + 8 + 8 + 8)).toNat := rfl
  rw [h]
  simp only [toNat_append_add]
  ring

theorem packPattern_patternBytes (p : BitVec 64) : packPattern (patternBytes p) = p := by
  apply BitVec.eq_of_toNat_eq
  rw [patternBytes, packPattern_toNat]
  simp only [BitVec.extractLsb'_toNat, Nat.shiftRight_eq_div_pow]
  have := p.isLt
  omega

theorem patternBytes_packPattern (b0 b1 b2 b3 b4 b5 b6 b7 : Byte) :
    patternBytes (packPattern [b0, b1, b2, b3, b4, b5, b6, b7]) = [b0, b1, b2, b3, b4, b5, b6, b7] := by
  simp only [patternBytes, List.cons.injEq, and_true]
  refine ⟨?_, ?_, ?_, ?_, ?_, ?_, ?_, ?_⟩ <;>
    (apply BitVec.eq_of_toNat_eq
     simp only [BitVec.extractLsb'_toNat, packPattern_toNat, Nat.shiftRight_eq_div_pow]
     omega)

/-! Rows, field by field. -/

theorem word_ext_iff (v w : Word) : v = w ↔
    Word.op v = Word.op w ∧ Word.a v = Word.a w ∧ Word.b v = Word.b w ∧ Word.c v = Word.c w ∧ Word.p v = Word.p w := by
  constructor
  · rintro rfl; exact ⟨rfl, rfl, rfl, rfl, rfl⟩
  · rintro ⟨h1, h2, h3, h4, h5⟩; rw [← packWord_fields v, ← packWord_fields w, h1, h2, h3, h4, h5]

theorem byteAt_and (w m : Word) (k : Nat) : Word.byteAt (w &&& m) k = Word.byteAt w k &&& Word.byteAt m k := by
  unfold Word.byteAt; ext i hi; simp

theorem p_and (w m : Word) : Word.p (w &&& m) = Word.p w &&& Word.p m := by
  unfold Word.p; ext i hi; simp

/-- A row takes a word when it does so field by field. -/
theorem takes_iff (r : Row) (w : Word) : r.takes w = true ↔
    Word.op w &&& Word.op r.mask = Word.op r.value ∧ Word.a w &&& Word.a r.mask = Word.a r.value ∧
    Word.b w &&& Word.b r.mask = Word.b r.value ∧ Word.c w &&& Word.c r.mask = Word.c r.value ∧
    Word.p w &&& Word.p r.mask = Word.p r.value := by
  simp only [Row.takes, beq_iff_eq]
  rw [word_ext_iff]
  simp only [Word.op, Word.a, Word.b, Word.c, byteAt_and, p_and]

theorem and_ones64 (b : BitVec 64) : b &&& 0xFFFFFFFFFFFFFFFF = b := BitVec.and_allOnes

/-- A row of format `N` takes the word of its opcode alone. -/
theorem takes_packN (m : String) (op : Byte) : Row.takes ⟨m, packN op, 0xFFFFFFFFFFFFFFFFFFFFFFFF⟩ (packN op) = true := by
  rw [takes_iff, show (0xFFFFFFFFFFFFFFFFFFFFFFFF : Word) = packWord 0xFF 0xFF 0xFF 0xFF 0xFFFFFFFFFFFFFFFF from rfl]
  simp only [packN, packWord_op, packWord_a, packWord_b, packWord_c, packWord_p]
  revert op; decide

end Sys2Proof
end

