-- ==== Sys2Proof/Laws/Memory.lean ====
section
/-! SUPPORT. The controller's memories: read after write, and every operation keeps the canonical form. -/

namespace Sys2Proof.Machine

theorem Memory.read_write_same (m : Memory) (a : Nat) (b : Byte) : (m.write a b).read a = some b := by
  induction m with
  | nil => simp [Memory.write, Memory.read]
  | cons c m ih =>
    obtain ⟨k, v⟩ := c
    simp only [Memory.write]
    split
    · simp [Memory.read]
    · split
      · simp [Memory.read]
      · simp [Memory.read, *]

theorem Memory.read_write_other (m : Memory) (a a' : Nat) (b : Byte) (h : a' ≠ a) :
    (m.write a b).read a' = m.read a' := by
  induction m with
  | nil => simp [Memory.write, Memory.read, h]
  | cons c m ih =>
    obtain ⟨k, v⟩ := c
    simp only [Memory.write]
    split
    · simp [Memory.read, h]
    · split
      · next hk => subst hk; simp [Memory.read, h]
      · simp only [Memory.read, ih]

/-- The first address of a list of cells is above `k`. -/
def Memory.above (k : Nat) (m : Memory) : Prop := ∀ c ∈ m.head?, k < c.1

theorem Memory.wf_cons (k : Nat) (v : Byte) (m : Memory) :
    Memory.wf ((k, v) :: m) = true ↔ Memory.above k m ∧ m.wf = true := by
  cases m with
  | nil => simp [Memory.wf, Memory.above]
  | cons c m => simp [Memory.wf, Memory.above]

theorem Memory.above_write (k : Nat) (m : Memory) (a : Nat) (b : Byte) (hk : k < a) (h : Memory.above k m) :
    Memory.above k (m.write a b) := by
  cases m with
  | nil => simpa [Memory.write, Memory.above] using hk
  | cons c m =>
    obtain ⟨k', v'⟩ := c
    simp only [Memory.write]
    split
    · simpa [Memory.above] using hk
    · split
      · simpa [Memory.above] using hk
      · simpa [Memory.above] using h

theorem Memory.wf_write (m : Memory) (a : Nat) (b : Byte) (h : m.wf = true) : (m.write a b).wf = true := by
  induction m with
  | nil => rfl
  | cons c m ih =>
    obtain ⟨k, v⟩ := c
    obtain ⟨ha, hm⟩ := (Memory.wf_cons k v m).1 h
    simp only [Memory.write]
    split
    · next hlt => exact (Memory.wf_cons _ _ _).2 ⟨by simpa [Memory.above] using hlt, h⟩
    · split
      · next heq => subst heq; exact (Memory.wf_cons _ _ _).2 ⟨ha, hm⟩
      · exact (Memory.wf_cons _ _ _).2 ⟨Memory.above_write k m a b (by omega) ha, ih hm⟩

theorem Memory.within_write (n : Nat) (m : Memory) (a : Nat) (b : Byte) (ha : a < n) (h : m.within n = true) :
    (m.write a b).within n = true := by
  induction m with
  | nil => simpa [Memory.within, Memory.write] using ha
  | cons c m ih =>
    obtain ⟨k, v⟩ := c
    simp only [Memory.within, List.all_cons, Bool.and_eq_true, decide_eq_true_eq] at h ih
    simp only [Memory.write]
    split
    · simp [Memory.within, ha, h.1]; simpa using h.2
    · split
      · simp [Memory.within, ha]; simpa using h.2
      · simp [Memory.within, h.1]; simpa using ih h.2

/-- The canonical form of both memories, within their address spaces. -/
def Lcd.memWf (l : Lcd) : Prop :=
  (l.ddram.wf = true ∧ l.ddram.within 128 = true) ∧ (l.cgram.wf = true ∧ l.cgram.within 64 = true)

theorem Lcd.memWf_of_same {l l' : Lcd} (hd : l'.ddram = l.ddram) (hc : l'.cgram = l.cgram) (h : l.memWf) : l'.memWf := by
  simpa [Lcd.memWf, hd, hc] using h

theorem Lcd.memWf_scramble (l : Lcd) : l.scramble.memWf := by simp [Lcd.memWf, Lcd.scramble, Memory.wf, Memory.within]

theorem Lcd.memWf_desync (l : Lcd) : l.desync.memWf := Lcd.memWf_of_same rfl rfl l.memWf_scramble

theorem Lcd.memWf_data (g : Screen) (b : Byte) (l : Lcd) (h : l.memWf) : (l.data g b).memWf := by
  obtain ⟨⟨h1, h2⟩, h3, h4⟩ := h
  unfold Lcd.data
  cases hp : l.ptr with
  | ddram a => exact ⟨⟨Memory.wf_write _ _ _ h1, Memory.within_write _ _ _ _ a.isLt h2⟩, h3, h4⟩
  | cgram a => exact ⟨⟨h1, h2⟩, Memory.wf_write _ _ _ h3, Memory.within_write _ _ _ _ a.isLt h4⟩

theorem Lcd.memWf_command (i : Instr) (l : Lcd) (h : l.memWf) : (l.command i).memWf := by
  cases i
  case lcdClear => exact ⟨⟨rfl, rfl⟩, h.2⟩
  all_goals exact h

theorem Lcd.memWf_byte (g : Screen) (rs : Bool) (b : Byte) (l : Lcd) (h : l.memWf) : (l.byte g rs b).memWf := by
  unfold Lcd.byte
  split
  · exact l.memWf_data g b h
  · split
    · exact l.memWf_command _ h
    · exact h

theorem Lcd.memWf_settle (g : Screen) (l : Lcd) (h : l.memWf) : (l.settle g).memWf := by
  unfold Lcd.settle
  split
  · exact h
  · exact Lcd.memWf_byte _ _ _ _ (Lcd.memWf_of_same rfl rfl h)

theorem Lcd.memWf_latch (rs : Bool) (n : Nibble) (l : Lcd) (h : l.memWf) : (l.latch rs n).memWf := by
  unfold Lcd.latch
  split
  · exact l.memWf_desync
  · split
    · exact Lcd.memWf_of_same rfl rfl l.memWf_scramble
    · exact h
    · exact h
    · exact h

end Sys2Proof.Machine
end

