-- ==== Sys2Proof/Laws/State.lean ====
section
/-! SUPPORT. What each update of State does to each field. -/

namespace Sys2Proof.Machine

/-! respond -/
@[simp] theorem respond_params (r : Response) (s : State) : (respond r s).params = s.params := rfl
@[simp] theorem respond_fsm (r : Response) (s : State) : (respond r s).fsm = s.fsm := rfl
@[simp] theorem respond_cols (r : Response) (s : State) : (respond r s).cols = s.cols := rfl
@[simp] theorem respond_rows (r : Response) (s : State) : (respond r s).rows = s.rows := rfl
@[simp] theorem respond_font (r : Response) (s : State) : (respond r s).font = s.font := rfl
@[simp] theorem respond_bl (r : Response) (s : State) : (respond r s).bl = s.bl := rfl
@[simp] theorem respond_dc (r : Response) (s : State) : (respond r s).dc = s.dc := rfl
@[simp] theorem respond_busy (r : Response) (s : State) : (respond r s).busy = false := rfl
@[simp] theorem respond_upc (r : Response) (s : State) : (respond r s).upc = 0 := rfl
@[simp] theorem respond_req (r : Response) (s : State) : (respond r s).req = Config.freeWord s.draws := rfl
@[simp] theorem respond_ioFault (r : Response) (s : State) : (respond r s).ioFault = s.ioFault := rfl
@[simp] theorem respond_tOpen (r : Response) (s : State) : (respond r s).tOpen = s.tOpen := rfl
@[simp] theorem respond_out (r : Response) (s : State) : (respond r s).out = s.out := rfl
@[simp] theorem respond_lcd (r : Response) (s : State) : (respond r s).lcd = s.lcd := rfl
@[simp] theorem respond_inbox (r : Response) (s : State) : (respond r s).inbox = s.inbox := rfl
@[simp] theorem respond_answers (r : Response) (s : State) : (respond r s).answers = s.answers := rfl
@[simp] theorem respond_delays (r : Response) (s : State) : (respond r s).delays = s.delays := rfl
@[simp] theorem respond_closes (r : Response) (s : State) : (respond r s).closes = s.closes := rfl
@[simp] theorem respond_closing (r : Response) (s : State) : (respond r s).closing = false := rfl
@[simp] theorem respond_trace (r : Response) (s : State) : (respond r s).trace = s.trace := rfl
@[simp] theorem respond_responses (r : Response) (s : State) : (respond r s).responses = s.responses ++ [r] := rfl
@[simp] theorem respond_draws (r : Response) (s : State) : (respond r s).draws = s.draws + 1 := rfl
/-! start -/
@[simp] theorem start_params (s : State) : (start s).params = s.params := rfl
@[simp] theorem start_fsm (s : State) : (start s).fsm = s.fsm := rfl
@[simp] theorem start_cols (s : State) : (start s).cols = s.cols := rfl
@[simp] theorem start_rows (s : State) : (start s).rows = s.rows := rfl
@[simp] theorem start_font (s : State) : (start s).font = s.font := rfl
@[simp] theorem start_bl (s : State) : (start s).bl = s.bl := rfl
@[simp] theorem start_dc (s : State) : (start s).dc = s.dc := rfl
@[simp] theorem start_busy (s : State) : (start s).busy = true := rfl
@[simp] theorem start_upc (s : State) : (start s).upc = 0 := rfl
@[simp] theorem start_req (s : State) : (start s).req = s.req := rfl
@[simp] theorem start_ioFault (s : State) : (start s).ioFault = s.ioFault := rfl
@[simp] theorem start_tOpen (s : State) : (start s).tOpen = s.tOpen := rfl
@[simp] theorem start_out (s : State) : (start s).out = s.out := rfl
@[simp] theorem start_lcd (s : State) : (start s).lcd = s.lcd := rfl
@[simp] theorem start_inbox (s : State) : (start s).inbox = s.inbox := rfl
@[simp] theorem start_answers (s : State) : (start s).answers = s.answers := rfl
@[simp] theorem start_delays (s : State) : (start s).delays = s.delays := rfl
@[simp] theorem start_closes (s : State) : (start s).closes = s.closes := rfl
@[simp] theorem start_closing (s : State) : (start s).closing = false := rfl
@[simp] theorem start_trace (s : State) : (start s).trace = s.trace := rfl
@[simp] theorem start_responses (s : State) : (start s).responses = s.responses := rfl
@[simp] theorem start_draws (s : State) : (start s).draws = s.draws := rfl
/-! dropMirror -/
@[simp] theorem dropMirror_params (s : State) : (dropMirror s).params = s.params := rfl
@[simp] theorem dropMirror_fsm (s : State) : (dropMirror s).fsm = s.fsm := rfl
@[simp] theorem dropMirror_cols (s : State) : (dropMirror s).cols = Config.freeByte s.draws := rfl
@[simp] theorem dropMirror_rows (s : State) : (dropMirror s).rows = Config.freeByte (s.draws + 1) := rfl
@[simp] theorem dropMirror_font (s : State) : (dropMirror s).font = Config.freeBit s.draws := rfl
@[simp] theorem dropMirror_bl (s : State) : (dropMirror s).bl = Config.freeBit (s.draws + 1) := rfl
@[simp] theorem dropMirror_dc (s : State) : (dropMirror s).dc = Config.freeDc s.draws := rfl
@[simp] theorem dropMirror_busy (s : State) : (dropMirror s).busy = s.busy := rfl
@[simp] theorem dropMirror_upc (s : State) : (dropMirror s).upc = s.upc := rfl
@[simp] theorem dropMirror_req (s : State) : (dropMirror s).req = s.req := rfl
@[simp] theorem dropMirror_ioFault (s : State) : (dropMirror s).ioFault = s.ioFault := rfl
@[simp] theorem dropMirror_tOpen (s : State) : (dropMirror s).tOpen = s.tOpen := rfl
@[simp] theorem dropMirror_out (s : State) : (dropMirror s).out = s.out := rfl
@[simp] theorem dropMirror_lcd (s : State) : (dropMirror s).lcd = s.lcd := rfl
@[simp] theorem dropMirror_inbox (s : State) : (dropMirror s).inbox = s.inbox := rfl
@[simp] theorem dropMirror_answers (s : State) : (dropMirror s).answers = s.answers := rfl
@[simp] theorem dropMirror_delays (s : State) : (dropMirror s).delays = s.delays := rfl
@[simp] theorem dropMirror_closes (s : State) : (dropMirror s).closes = s.closes := rfl
@[simp] theorem dropMirror_closing (s : State) : (dropMirror s).closing = s.closing := rfl
@[simp] theorem dropMirror_trace (s : State) : (dropMirror s).trace = s.trace := rfl
@[simp] theorem dropMirror_responses (s : State) : (dropMirror s).responses = s.responses := rfl
@[simp] theorem dropMirror_draws (s : State) : (dropMirror s).draws = s.draws + 2 := rfl
/-! initWrites -/
@[simp] theorem initWrites_params (cols rows : Byte) (font : Nibble) (bl0 : Bool) (s : State) : (initWrites cols rows font bl0 s).params = s.params := rfl
@[simp] theorem initWrites_fsm (cols rows : Byte) (font : Nibble) (bl0 : Bool) (s : State) : (initWrites cols rows font bl0 s).fsm = .uninitialized := rfl
@[simp] theorem initWrites_cols (cols rows : Byte) (font : Nibble) (bl0 : Bool) (s : State) : (initWrites cols rows font bl0 s).cols = cols := rfl
@[simp] theorem initWrites_rows (cols rows : Byte) (font : Nibble) (bl0 : Bool) (s : State) : (initWrites cols rows font bl0 s).rows = rows := rfl
@[simp] theorem initWrites_font (cols rows : Byte) (font : Nibble) (bl0 : Bool) (s : State) : (initWrites cols rows font bl0 s).font = font.getLsbD 0 := rfl
@[simp] theorem initWrites_bl (cols rows : Byte) (font : Nibble) (bl0 : Bool) (s : State) : (initWrites cols rows font bl0 s).bl = bl0 := rfl
@[simp] theorem initWrites_dc (cols rows : Byte) (font : Nibble) (bl0 : Bool) (s : State) : (initWrites cols rows font bl0 s).dc = 0b100 := rfl
@[simp] theorem initWrites_busy (cols rows : Byte) (font : Nibble) (bl0 : Bool) (s : State) : (initWrites cols rows font bl0 s).busy = s.busy := rfl
@[simp] theorem initWrites_upc (cols rows : Byte) (font : Nibble) (bl0 : Bool) (s : State) : (initWrites cols rows font bl0 s).upc = s.upc := rfl
@[simp] theorem initWrites_req (cols rows : Byte) (font : Nibble) (bl0 : Bool) (s : State) : (initWrites cols rows font bl0 s).req = s.req := rfl
@[simp] theorem initWrites_ioFault (cols rows : Byte) (font : Nibble) (bl0 : Bool) (s : State) : (initWrites cols rows font bl0 s).ioFault = false := rfl
@[simp] theorem initWrites_tOpen (cols rows : Byte) (font : Nibble) (bl0 : Bool) (s : State) : (initWrites cols rows font bl0 s).tOpen = s.tOpen := rfl
@[simp] theorem initWrites_out (cols rows : Byte) (font : Nibble) (bl0 : Bool) (s : State) : (initWrites cols rows font bl0 s).out = s.out := rfl
@[simp] theorem initWrites_lcd (cols rows : Byte) (font : Nibble) (bl0 : Bool) (s : State) : (initWrites cols rows font bl0 s).lcd = s.lcd := rfl
@[simp] theorem initWrites_inbox (cols rows : Byte) (font : Nibble) (bl0 : Bool) (s : State) : (initWrites cols rows font bl0 s).inbox = s.inbox := rfl
@[simp] theorem initWrites_answers (cols rows : Byte) (font : Nibble) (bl0 : Bool) (s : State) : (initWrites cols rows font bl0 s).answers = s.answers := rfl
@[simp] theorem initWrites_delays (cols rows : Byte) (font : Nibble) (bl0 : Bool) (s : State) : (initWrites cols rows font bl0 s).delays = s.delays := rfl
@[simp] theorem initWrites_closes (cols rows : Byte) (font : Nibble) (bl0 : Bool) (s : State) : (initWrites cols rows font bl0 s).closes = s.closes := rfl
@[simp] theorem initWrites_closing (cols rows : Byte) (font : Nibble) (bl0 : Bool) (s : State) : (initWrites cols rows font bl0 s).closing = s.closing := rfl
@[simp] theorem initWrites_trace (cols rows : Byte) (font : Nibble) (bl0 : Bool) (s : State) : (initWrites cols rows font bl0 s).trace = s.trace := rfl
@[simp] theorem initWrites_responses (cols rows : Byte) (font : Nibble) (bl0 : Bool) (s : State) : (initWrites cols rows font bl0 s).responses = s.responses := rfl
@[simp] theorem initWrites_draws (cols rows : Byte) (font : Nibble) (bl0 : Bool) (s : State) : (initWrites cols rows font bl0 s).draws = s.draws := rfl
/-! drive: the expander and the controller only -/
@[simp] theorem drive_params (v : Byte) (s : State) : (drive v s).params = s.params := by unfold drive; split <;> rfl
@[simp] theorem drive_fsm (v : Byte) (s : State) : (drive v s).fsm = s.fsm := by unfold drive; split <;> rfl
@[simp] theorem drive_cols (v : Byte) (s : State) : (drive v s).cols = s.cols := by unfold drive; split <;> rfl
@[simp] theorem drive_rows (v : Byte) (s : State) : (drive v s).rows = s.rows := by unfold drive; split <;> rfl
@[simp] theorem drive_font (v : Byte) (s : State) : (drive v s).font = s.font := by unfold drive; split <;> rfl
@[simp] theorem drive_bl (v : Byte) (s : State) : (drive v s).bl = s.bl := by unfold drive; split <;> rfl
@[simp] theorem drive_dc (v : Byte) (s : State) : (drive v s).dc = s.dc := by unfold drive; split <;> rfl
@[simp] theorem drive_busy (v : Byte) (s : State) : (drive v s).busy = s.busy := by unfold drive; split <;> rfl
@[simp] theorem drive_upc (v : Byte) (s : State) : (drive v s).upc = s.upc := by unfold drive; split <;> rfl
@[simp] theorem drive_req (v : Byte) (s : State) : (drive v s).req = s.req := by unfold drive; split <;> rfl
@[simp] theorem drive_ioFault (v : Byte) (s : State) : (drive v s).ioFault = s.ioFault := by unfold drive; split <;> rfl
@[simp] theorem drive_tOpen (v : Byte) (s : State) : (drive v s).tOpen = s.tOpen := by unfold drive; split <;> rfl
@[simp] theorem drive_inbox (v : Byte) (s : State) : (drive v s).inbox = s.inbox := by unfold drive; split <;> rfl
@[simp] theorem drive_answers (v : Byte) (s : State) : (drive v s).answers = s.answers := by unfold drive; split <;> rfl
@[simp] theorem drive_delays (v : Byte) (s : State) : (drive v s).delays = s.delays := by unfold drive; split <;> rfl
@[simp] theorem drive_closes (v : Byte) (s : State) : (drive v s).closes = s.closes := by unfold drive; split <;> rfl
@[simp] theorem drive_closing (v : Byte) (s : State) : (drive v s).closing = s.closing := by unfold drive; split <;> rfl
@[simp] theorem drive_trace (v : Byte) (s : State) : (drive v s).trace = s.trace := by unfold drive; split <;> rfl
@[simp] theorem drive_responses (v : Byte) (s : State) : (drive v s).responses = s.responses := by unfold drive; split <;> rfl
@[simp] theorem drive_draws (v : Byte) (s : State) : (drive v s).draws = s.draws := by unfold drive; split <;> rfl
@[simp] theorem drive_out (v : Byte) (s : State) : (drive v s).out = v := by unfold drive; split <;> rfl
/-! driveFailed: the expander and the controller only -/
@[simp] theorem driveFailed_params (v : Byte) (reached : Bool) (s : State) : (driveFailed v reached s).params = s.params := by cases reached <;> simp [driveFailed]
@[simp] theorem driveFailed_fsm (v : Byte) (reached : Bool) (s : State) : (driveFailed v reached s).fsm = s.fsm := by cases reached <;> simp [driveFailed]
@[simp] theorem driveFailed_cols (v : Byte) (reached : Bool) (s : State) : (driveFailed v reached s).cols = s.cols := by cases reached <;> simp [driveFailed]
@[simp] theorem driveFailed_rows (v : Byte) (reached : Bool) (s : State) : (driveFailed v reached s).rows = s.rows := by cases reached <;> simp [driveFailed]
@[simp] theorem driveFailed_font (v : Byte) (reached : Bool) (s : State) : (driveFailed v reached s).font = s.font := by cases reached <;> simp [driveFailed]
@[simp] theorem driveFailed_bl (v : Byte) (reached : Bool) (s : State) : (driveFailed v reached s).bl = s.bl := by cases reached <;> simp [driveFailed]
@[simp] theorem driveFailed_dc (v : Byte) (reached : Bool) (s : State) : (driveFailed v reached s).dc = s.dc := by cases reached <;> simp [driveFailed]
@[simp] theorem driveFailed_busy (v : Byte) (reached : Bool) (s : State) : (driveFailed v reached s).busy = s.busy := by cases reached <;> simp [driveFailed]
@[simp] theorem driveFailed_upc (v : Byte) (reached : Bool) (s : State) : (driveFailed v reached s).upc = s.upc := by cases reached <;> simp [driveFailed]
@[simp] theorem driveFailed_req (v : Byte) (reached : Bool) (s : State) : (driveFailed v reached s).req = s.req := by cases reached <;> simp [driveFailed]
@[simp] theorem driveFailed_ioFault (v : Byte) (reached : Bool) (s : State) : (driveFailed v reached s).ioFault = s.ioFault := by cases reached <;> simp [driveFailed]
@[simp] theorem driveFailed_tOpen (v : Byte) (reached : Bool) (s : State) : (driveFailed v reached s).tOpen = s.tOpen := by cases reached <;> simp [driveFailed]
@[simp] theorem driveFailed_inbox (v : Byte) (reached : Bool) (s : State) : (driveFailed v reached s).inbox = s.inbox := by cases reached <;> simp [driveFailed]
@[simp] theorem driveFailed_answers (v : Byte) (reached : Bool) (s : State) : (driveFailed v reached s).answers = s.answers := by cases reached <;> simp [driveFailed]
@[simp] theorem driveFailed_delays (v : Byte) (reached : Bool) (s : State) : (driveFailed v reached s).delays = s.delays := by cases reached <;> simp [driveFailed]
@[simp] theorem driveFailed_closes (v : Byte) (reached : Bool) (s : State) : (driveFailed v reached s).closes = s.closes := by cases reached <;> simp [driveFailed]
@[simp] theorem driveFailed_closing (v : Byte) (reached : Bool) (s : State) : (driveFailed v reached s).closing = s.closing := by cases reached <;> simp [driveFailed]
@[simp] theorem driveFailed_trace (v : Byte) (reached : Bool) (s : State) : (driveFailed v reached s).trace = s.trace := by cases reached <;> simp [driveFailed]
@[simp] theorem driveFailed_responses (v : Byte) (reached : Bool) (s : State) : (driveFailed v reached s).responses = s.responses := by cases reached <;> simp [driveFailed]
@[simp] theorem driveFailed_draws (v : Byte) (reached : Bool) (s : State) : (driveFailed v reached s).draws = s.draws := by cases reached <;> simp [driveFailed]
@[simp] theorem driveFailed_out (v : Byte) (reached : Bool) (s : State) : (driveFailed v reached s).out = if reached then v else s.out := by cases reached <;> simp [driveFailed]
/-! setFsm: the lifecycle state, and the mirrored fields when Closed is entered -/
@[simp] theorem setFsm_params (g : Fsm) (s : State) : (setFsm g s).params = s.params := by unfold setFsm; split <;> rfl
@[simp] theorem setFsm_busy (g : Fsm) (s : State) : (setFsm g s).busy = s.busy := by unfold setFsm; split <;> rfl
@[simp] theorem setFsm_upc (g : Fsm) (s : State) : (setFsm g s).upc = s.upc := by unfold setFsm; split <;> rfl
@[simp] theorem setFsm_req (g : Fsm) (s : State) : (setFsm g s).req = s.req := by unfold setFsm; split <;> rfl
@[simp] theorem setFsm_ioFault (g : Fsm) (s : State) : (setFsm g s).ioFault = s.ioFault := by unfold setFsm; split <;> rfl
@[simp] theorem setFsm_tOpen (g : Fsm) (s : State) : (setFsm g s).tOpen = s.tOpen := by unfold setFsm; split <;> rfl
@[simp] theorem setFsm_out (g : Fsm) (s : State) : (setFsm g s).out = s.out := by unfold setFsm; split <;> rfl
@[simp] theorem setFsm_lcd (g : Fsm) (s : State) : (setFsm g s).lcd = s.lcd := by unfold setFsm; split <;> rfl
@[simp] theorem setFsm_inbox (g : Fsm) (s : State) : (setFsm g s).inbox = s.inbox := by unfold setFsm; split <;> rfl
@[simp] theorem setFsm_answers (g : Fsm) (s : State) : (setFsm g s).answers = s.answers := by unfold setFsm; split <;> rfl
@[simp] theorem setFsm_delays (g : Fsm) (s : State) : (setFsm g s).delays = s.delays := by unfold setFsm; split <;> rfl
@[simp] theorem setFsm_closes (g : Fsm) (s : State) : (setFsm g s).closes = s.closes := by unfold setFsm; split <;> rfl
@[simp] theorem setFsm_closing (g : Fsm) (s : State) : (setFsm g s).closing = s.closing := by unfold setFsm; split <;> rfl
@[simp] theorem setFsm_trace (g : Fsm) (s : State) : (setFsm g s).trace = s.trace := by unfold setFsm; split <;> rfl
@[simp] theorem setFsm_responses (g : Fsm) (s : State) : (setFsm g s).responses = s.responses := by unfold setFsm; split <;> rfl
@[simp] theorem setFsm_fsm (g : Fsm) (s : State) : (setFsm g s).fsm = g := by unfold setFsm; split <;> rfl
theorem setFsm_of_ne_closed (g : Fsm) (s : State) (h : g ≠ .closed) : setFsm g s = { s with fsm := g } := by simp [setFsm, h]

/-! finishClose: the trace, the transport and the outstanding request -/
@[simp] theorem finishClose_params (n : Nat) (s : State) : (finishClose n s).params = s.params := rfl
@[simp] theorem finishClose_fsm (n : Nat) (s : State) : (finishClose n s).fsm = s.fsm := rfl
@[simp] theorem finishClose_cols (n : Nat) (s : State) : (finishClose n s).cols = s.cols := rfl
@[simp] theorem finishClose_rows (n : Nat) (s : State) : (finishClose n s).rows = s.rows := rfl
@[simp] theorem finishClose_font (n : Nat) (s : State) : (finishClose n s).font = s.font := rfl
@[simp] theorem finishClose_bl (n : Nat) (s : State) : (finishClose n s).bl = s.bl := rfl
@[simp] theorem finishClose_dc (n : Nat) (s : State) : (finishClose n s).dc = s.dc := rfl
@[simp] theorem finishClose_busy (n : Nat) (s : State) : (finishClose n s).busy = s.busy := rfl
@[simp] theorem finishClose_upc (n : Nat) (s : State) : (finishClose n s).upc = s.upc := rfl
@[simp] theorem finishClose_req (n : Nat) (s : State) : (finishClose n s).req = s.req := rfl
@[simp] theorem finishClose_ioFault (n : Nat) (s : State) : (finishClose n s).ioFault = s.ioFault := rfl
@[simp] theorem finishClose_out (n : Nat) (s : State) : (finishClose n s).out = s.out := rfl
@[simp] theorem finishClose_lcd (n : Nat) (s : State) : (finishClose n s).lcd = s.lcd := rfl
@[simp] theorem finishClose_inbox (n : Nat) (s : State) : (finishClose n s).inbox = s.inbox := rfl
@[simp] theorem finishClose_answers (n : Nat) (s : State) : (finishClose n s).answers = s.answers := rfl
@[simp] theorem finishClose_delays (n : Nat) (s : State) : (finishClose n s).delays = s.delays := rfl
@[simp] theorem finishClose_responses (n : Nat) (s : State) : (finishClose n s).responses = s.responses := rfl
@[simp] theorem finishClose_draws (n : Nat) (s : State) : (finishClose n s).draws = s.draws := rfl
@[simp] theorem finishClose_trace (n : Nat) (s : State) : (finishClose n s).trace = s.trace ++ [.evClose] := rfl
@[simp] theorem finishClose_tOpen (n : Nat) (s : State) : (finishClose n s).tOpen = false := rfl
@[simp] theorem finishClose_closes (n : Nat) (s : State) : (finishClose n s).closes = n := rfl
@[simp] theorem finishClose_closing (n : Nat) (s : State) : (finishClose n s).closing = false := rfl

/-! abortReady -/
@[simp] theorem abortReady_params (s : State) : (abortReady s).params = s.params := rfl
@[simp] theorem abortReady_fsm (s : State) : (abortReady s).fsm = s.fsm := rfl
@[simp] theorem abortReady_cols (s : State) : (abortReady s).cols = s.cols := rfl
@[simp] theorem abortReady_rows (s : State) : (abortReady s).rows = s.rows := rfl
@[simp] theorem abortReady_font (s : State) : (abortReady s).font = s.font := rfl
@[simp] theorem abortReady_bl (s : State) : (abortReady s).bl = s.bl := rfl
@[simp] theorem abortReady_dc (s : State) : (abortReady s).dc = s.dc := rfl
@[simp] theorem abortReady_busy (s : State) : (abortReady s).busy = false := rfl
@[simp] theorem abortReady_upc (s : State) : (abortReady s).upc = 0 := rfl
@[simp] theorem abortReady_req (s : State) : (abortReady s).req = Config.freeWord s.draws := rfl
@[simp] theorem abortReady_ioFault (s : State) : (abortReady s).ioFault = true := rfl
@[simp] theorem abortReady_tOpen (s : State) : (abortReady s).tOpen = s.tOpen := rfl
@[simp] theorem abortReady_out (s : State) : (abortReady s).out = s.out := rfl
@[simp] theorem abortReady_lcd (s : State) : (abortReady s).lcd = s.lcd := rfl
@[simp] theorem abortReady_inbox (s : State) : (abortReady s).inbox = s.inbox := rfl
@[simp] theorem abortReady_answers (s : State) : (abortReady s).answers = s.answers := rfl
@[simp] theorem abortReady_delays (s : State) : (abortReady s).delays = s.delays := rfl
@[simp] theorem abortReady_closes (s : State) : (abortReady s).closes = s.closes := rfl
@[simp] theorem abortReady_closing (s : State) : (abortReady s).closing = false := rfl
@[simp] theorem abortReady_trace (s : State) : (abortReady s).trace = s.trace := rfl
@[simp] theorem abortReady_responses (s : State) : (abortReady s).responses = s.responses ++ [.ioError] := rfl
@[simp] theorem abortReady_draws (s : State) : (abortReady s).draws = s.draws + 1 := rfl
/-! failInit: the mirrored fields become free -/
@[simp] theorem failInit_params (s : State) : (failInit s).params = s.params := rfl
@[simp] theorem failInit_fsm (s : State) : (failInit s).fsm = .uninitialized := rfl
@[simp] theorem failInit_busy (s : State) : (failInit s).busy = false := rfl
@[simp] theorem failInit_upc (s : State) : (failInit s).upc = 0 := rfl
@[simp] theorem failInit_req (s : State) : (failInit s).req = Config.freeWord (s.draws + 2) := rfl
@[simp] theorem failInit_ioFault (s : State) : (failInit s).ioFault = true := rfl
@[simp] theorem failInit_tOpen (s : State) : (failInit s).tOpen = s.tOpen := rfl
@[simp] theorem failInit_out (s : State) : (failInit s).out = s.out := rfl
@[simp] theorem failInit_lcd (s : State) : (failInit s).lcd = s.lcd := rfl
@[simp] theorem failInit_inbox (s : State) : (failInit s).inbox = s.inbox := rfl
@[simp] theorem failInit_answers (s : State) : (failInit s).answers = s.answers := rfl
@[simp] theorem failInit_delays (s : State) : (failInit s).delays = s.delays := rfl
@[simp] theorem failInit_closes (s : State) : (failInit s).closes = s.closes := rfl
@[simp] theorem failInit_closing (s : State) : (failInit s).closing = false := rfl
@[simp] theorem failInit_trace (s : State) : (failInit s).trace = s.trace := rfl
@[simp] theorem failInit_responses (s : State) : (failInit s).responses = s.responses ++ [.ioError] := rfl

/-! closeInit: the TClose of INIT's abort -/
theorem closeInit_done (s : State) (n : Nat) (h : s.closes = n + 1) :
    closeInit s = failInit (finishClose n s) := by simp [closeInit, h]
theorem closeInit_held (s : State) (h : s.closes = 0) : closeInit s = { s with closing := true } := by simp [closeInit, h]
theorem abortInit_open (s : State) (h : s.upc = 0) : abortInit s = failInit s := by simp [abortInit, h]
theorem abortInit_write (s : State) (h : s.upc ≠ 0) : abortInit s = closeInit s := by simp [abortInit, h]

end Sys2Proof.Machine
end

