-- ==== Sys2Proof/Laws/Ops.lean ====
section
/-! SUPPORT. What the shared operations do, said once: executing an action, running a list with everything answered `ok`,
running it into an `err`, and framing under well-formed masks. -/

namespace Sys2Proof.Machine

/-! Executing and running. -/

@[simp] theorem run_nil (ab : State → State) (s : State) : run ab [] s = respond .ok s := rfl

theorem run_tWrite_ok (ab : State → State) (v : Byte) (l : List Action) (s : State) (rest : List Answer)
    (h : s.answers = .ok :: rest) :
    run ab (.tWrite v :: l) s =
      run ab l { drive v { s with answers := rest, trace := s.trace ++ [.evWrite v .ok] } with upc := s.upc + 1 } := by
  simp [run, execAction, h]

theorem run_tWrite_err (ab : State → State) (v : Byte) (l : List Action) (s : State) (rest : List Answer) (r : Bool)
    (h : s.answers = .err r :: rest) :
    run ab (.tWrite v :: l) s =
      ab (driveFailed v r { s with answers := rest, trace := s.trace ++ [.evWrite v .err] }) := by
  simp [run, execAction, h]

theorem run_tOpen_ok (ab : State → State) (l : List Action) (s : State) (rest : List Answer) (h : s.answers = .ok :: rest) :
    run ab (.tOpen :: l) s =
      run ab l { s with answers := rest, trace := s.trace ++ [.evOpen .ok], tOpen := true, upc := s.upc + 1 } := by
  simp [run, execAction, h]

theorem run_tOpen_err (ab : State → State) (l : List Action) (s : State) (rest : List Answer) (r : Bool)
    (h : s.answers = .err r :: rest) :
    run ab (.tOpen :: l) s = ab { s with answers := rest, trace := s.trace ++ [.evOpen .err] } := by
  simp [run, execAction, h]

theorem run_wait (ab : State → State) (t : Delay) (l : List Action) (s : State) (d : Nat) (h : s.delays = d + 1) :
    run ab (.wait t :: l) s =
      run ab l { s with delays := d, trace := s.trace ++ [.evWait t], lcd := s.lcd.settle s.screen, upc := s.upc + 1 } := by
  simp [run, execAction, h]

theorem run_tClose (ab : State → State) (l : List Action) (s : State) (n : Nat) (h : s.closes = n + 1) :
    run ab (.tClose :: l) s = run ab l { finishClose n s with upc := s.upc + 1 } := by
  simp [run, execAction, h]

/-- A TClose that the transport does not complete holds the operation where it is (41_framing.md R192). -/
theorem run_unclosed (ab : State → State) (l : List Action) (s : State) (h : s.closes = 0) :
    run ab (.tClose :: l) s = { s with closing := true } := by
  simp [run, execAction, h]

theorem run_setFsm (ab : State → State) (f : Fsm) (l : List Action) (s : State) :
    run ab (.setFsm f :: l) s = run ab l { setFsm f s with upc := s.upc + 1 } := by
  simp [run, execAction]

/-- A request of the transport that is not answered holds the operation where it is (41_framing.md R192). -/
theorem run_unanswered (ab : State → State) (a : Action) (l : List Action) (s : State) (h : s.answers = [])
    (ha : asks a = 1) : run ab (a :: l) s = s := by
  cases a <;> simp_all [run, execAction, asks]

theorem run_undelayed (ab : State → State) (t : Delay) (l : List Action) (s : State) (h : s.delays = 0) :
    run ab (.wait t :: l) s = s := by
  simp [run, execAction, h]

/-! Traces of action lists. -/

theorem writesOf_append (t u : List Event) : writesOf (t ++ u) = writesOf t ++ writesOf u := by simp [writesOf]
theorem waitsOf_append (t u : List Event) : waitsOf (t ++ u) = waitsOf t ++ waitsOf u := by simp [waitsOf]

theorem getLastD_append {α : Type} (l l' : List α) (d : α) : (l ++ l').getLastD d = l'.getLastD (l.getLastD d) := by
  cases l' with
  | nil => simp
  | cons a l' => simp [List.getLastD_eq_getLast?, List.getLast?_append]

theorem asksIn_append (t u : List Event) : asksIn (t ++ u) = asksIn t + asksIn u := by simp [asksIn]
theorem waitsIn_append (t u : List Event) : waitsIn (t ++ u) = waitsIn t + waitsIn u := by simp [waitsIn, waitsOf_append]

theorem asksIn_okEvents (l : List Action) : asksIn (okEvents l) = asksOf l := by
  induction l with
  | nil => rfl
  | cons a l ih =>
    have : okEvents (a :: l) = okEvent a ++ okEvents l := rfl
    rw [this, asksIn_append, ih]
    cases a <;> simp [asksOf, asksIn, okEvent, asks]

theorem waitsIn_okEvents (l : List Action) : waitsIn (okEvents l) = waitsNeeded l := by
  induction l with
  | nil => rfl
  | cons a l ih =>
    have : okEvents (a :: l) = okEvent a ++ okEvents l := rfl
    rw [this, waitsIn_append, ih]
    cases a <;> simp [waitsNeeded, waitsIn, waitsOf, okEvent, waits]

/-- A write in the trace of a list answered `ok` is an action of it. -/
theorem okEvents_split (l : List Action) (before : List Event) (v : Byte) (after : List Event)
    (h : okEvents l = before ++ .evWrite v .ok :: after) :
    ∃ pre post, l = pre ++ .tWrite v :: post ∧ okEvents pre = before ∧ okEvents post = after := by
  induction l generalizing before with
  | nil => simp [okEvents] at h
  | cons a l ih =>
    have hc : okEvents (a :: l) = okEvent a ++ okEvents l := rfl
    rw [hc] at h
    cases before with
    | nil =>
      cases a with
      | tWrite w =>
        simp [okEvent] at h
        exact ⟨[], l, by simp [h.1], rfl, h.2⟩
      | setFsm f =>
        obtain ⟨pre, post, h1, h2, h3⟩ := ih [] (by simpa [okEvent] using h)
        exact ⟨.setFsm f :: pre, post, by simp [h1], by simpa [okEvents, okEvent] using h2, h3⟩
      | tOpen => simp [okEvent] at h
      | tClose => simp [okEvent] at h
      | wait t => simp [okEvent] at h
    | cons e before =>
      cases a with
      | setFsm f =>
        obtain ⟨pre, post, h1, h2, h3⟩ := ih (e :: before) (by simpa [okEvent] using h)
        exact ⟨.setFsm f :: pre, post, by simp [h1], by simpa [okEvents, okEvent] using h2, h3⟩
      | _ =>
        simp only [okEvent, List.cons_append, List.nil_append, List.cons.injEq] at h
        obtain ⟨pre, post, h1, h2, h3⟩ := ih before h.2
        exact ⟨_ :: pre, post, by rw [h1, List.cons_append], by rw [← h.1, ← h2]; rfl, h3⟩

/-- Every action but those that end a handle: they keep the mirrored fields and need no completion of a TClose. -/
def Action.inSession : Action → Bool
  | .setFsm f => f != .closed
  | .tClose => false
  | .tOpen | .tWrite _ | .wait _ => true

/-- An action that neither touches the lifecycle nor opens or closes the transport. -/
def Action.plain : Action → Bool
  | .tWrite _ | .wait _ => true
  | .tOpen | .tClose | .setFsm _ => false

/-- `S.fsm` after a list of completed actions. -/
def fsmAfter : List Action → Fsm → Fsm
  | [], f => f
  | .setFsm g :: l, _ => fsmAfter l g
  | .tOpen :: l, f | .tWrite _ :: l, f | .tClose :: l, f | .wait _ :: l, f => fsmAfter l f

/-- `S.t_open` after a list of completed actions. -/
def openAfter : List Action → Bool → Bool
  | [], b => b
  | .tOpen :: l, _ => openAfter l true
  | .tClose :: l, _ => openAfter l false
  | .setFsm _ :: l, b | .tWrite _ :: l, b | .wait _ :: l, b => openAfter l b

theorem plain_lifecycle (l : List Action) (h : l.all Action.plain = true) :
    (∀ f, fsmAfter l f = f) ∧ (∀ b, openAfter l b = b) ∧ l.all Action.inSession = true := by
  induction l with
  | nil => simp [fsmAfter, openAfter]
  | cons a l ih =>
    simp only [List.all_cons, Bool.and_eq_true] at h
    cases a <;> simp_all [Action.plain, fsmAfter, openAfter, Action.inSession]

/-- What a completed action makes of the expander and the controller (20_memory.md R81, R83). -/
def boardStep (p : Params) (screen : Screen) (b : Byte × Lcd) : Action → Byte × Lcd
  | .tWrite v =>
    (v, if b.1 &&& p.enMask != 0 && v &&& p.enMask == 0 then b.2.latch (b.1 &&& p.rsMask != 0) (hiNibble b.1) else b.2)
  | .wait _ => (b.1, b.2.settle screen)
  | .tOpen | .tClose | .setFsm _ => b

/-- What a list of completed actions makes of them. -/
def board (p : Params) (screen : Screen) (l : List Action) (b : Byte × Lcd) : Byte × Lcd := l.foldl (boardStep p screen) b

theorem board_append (p : Params) (g : Screen) (l l' : List Action) (b : Byte × Lcd) :
    board p g (l ++ l') b = board p g l' (board p g l b) :=
  List.foldl_append

/-- Everything the completed actions `l` have done between `s` and `t`. -/
structure Ran (l : List Action) (s t : State) : Prop where
  trace : t.trace = s.trace ++ okEvents l
  upc : t.upc = s.upc + l.length
  out : t.out = (writesOf (okEvents l)).getLastD s.out
  fsm : t.fsm = fsmAfter l s.fsm
  tOpen : t.tOpen = openAfter l s.tOpen
  params : t.params = s.params
  busy : t.busy = s.busy
  req : t.req = s.req
  ioFault : t.ioFault = s.ioFault
  inbox : t.inbox = s.inbox
  responses : t.responses = s.responses
  closes : t.closes = s.closes
  closing : t.closing = s.closing
  board : (t.out, t.lcd) = board s.params s.screen l (s.out, s.lcd)
  mirror : t.cols = s.cols ∧ t.rows = s.rows ∧ t.font = s.font ∧ t.bl = s.bl ∧ t.dc = s.dc ∧ t.draws = s.draws

theorem Ran.nil (s : State) : Ran [] s s :=
  ⟨by simp [okEvents], rfl, by simp [okEvents, writesOf], rfl, rfl, rfl, rfl, rfl, rfl, rfl, rfl, rfl, rfl, rfl,
    ⟨rfl, rfl, rfl, rfl, rfl, rfl⟩⟩

theorem Ran.screen {l : List Action} {s t : State} (h : Ran l s t) : t.screen = s.screen := by
  simp [State.screen, h.mirror.1, h.mirror.2.1]

/-- One completed action, then the rest. -/
theorem Ran.cons {a : Action} {l : List Action} {s u t : State} (h : Ran [a] s u) (h' : Ran l u t) : Ran (a :: l) s t where
  trace := by rw [h'.trace, h.trace]; simp [okEvents]
  upc := by rw [h'.upc, h.upc]; simp; omega
  out := by
    rw [h'.out, h.out]
    have : okEvents (a :: l) = okEvents [a] ++ okEvents l := by simp [okEvents]
    rw [this, writesOf_append]
    exact (getLastD_append _ _ _).symm
  fsm := by rw [h'.fsm, h.fsm]; cases a <;> rfl
  tOpen := by rw [h'.tOpen, h.tOpen]; cases a <;> rfl
  params := h'.params.trans h.params
  busy := h'.busy.trans h.busy
  req := h'.req.trans h.req
  ioFault := h'.ioFault.trans h.ioFault
  inbox := h'.inbox.trans h.inbox
  responses := h'.responses.trans h.responses
  closes := h'.closes.trans h.closes
  closing := h'.closing.trans h.closing
  board := by rw [h'.board, h.board, h.params, h.screen]; rfl
  mirror := by
    obtain ⟨h1, h2, h3, h4, h5, h6⟩ := h.mirror
    obtain ⟨k1, k2, k3, k4, k5, k6⟩ := h'.mirror
    exact ⟨k1.trans h1, k2.trans h2, k3.trans h3, k4.trans h4, k5.trans h5, k6.trans h6⟩

/-- Everything an action can do when its request is answered `ok` (or it needs no answer). -/
theorem execAction_ok (a : Action) (s : State) (rest : List Answer) (d : Nat) (hs : a.inSession = true)
    (ha : s.answers = List.replicate (asks a) .ok ++ rest) (hd : s.delays = waits a + d) :
    ∃ t, execAction a s = .completed t ∧ t.answers = rest ∧ t.delays = d ∧ Ran [a] s { t with upc := t.upc + 1 } := by
  cases a with
  | tOpen =>
    simp [asks] at ha; simp [waits] at hd
    exact ⟨{ s with answers := rest, trace := s.trace ++ [.evOpen .ok], tOpen := true }, by simp [execAction, ha], rfl, hd,
      ⟨rfl, rfl, rfl, rfl, rfl, rfl, rfl, rfl, rfl, rfl, rfl, rfl, rfl, rfl, ⟨rfl, rfl, rfl, rfl, rfl, rfl⟩⟩⟩
  | tWrite v =>
    simp [asks] at ha; simp [waits] at hd
    exact ⟨drive v { s with answers := rest, trace := s.trace ++ [.evWrite v .ok] }, by simp [execAction, ha], by simp,
      by simp [hd], ⟨by simp [okEvents, okEvent], by simp, by simp [okEvents, okEvent, writesOf], by simp [fsmAfter],
        by simp [openAfter], by simp, by simp, by simp, by simp, by simp, by simp, by simp, by simp,
        by simp only [board, List.foldl, boardStep, drive]; split <;> rfl,
        ⟨by simp, by simp, by simp, by simp, by simp, by simp⟩⟩⟩
  | tClose => simp [Action.inSession] at hs
  | wait x =>
    simp [asks] at ha; simp [waits] at hd
    have hd' : s.delays = d + 1 := by omega
    exact ⟨{ s with delays := d, trace := s.trace ++ [.evWait x], lcd := s.lcd.settle s.screen }, by simp [execAction, hd'],
      ha, rfl, ⟨rfl, rfl, rfl, rfl, rfl, rfl, rfl, rfl, rfl, rfl, rfl, rfl, rfl, rfl, ⟨rfl, rfl, rfl, rfl, rfl, rfl⟩⟩⟩
  | setFsm f =>
    simp [asks] at ha; simp [waits] at hd
    have hf : f ≠ .closed := by simpa [Action.inSession] using hs
    exact ⟨setFsm f s, by simp [execAction], by simp [ha], by simp [hd], by
      rw [setFsm_of_ne_closed f s hf]
      exact ⟨by simp [okEvents, okEvent], rfl, rfl, rfl, rfl, rfl, rfl, rfl, rfl, rfl, rfl, rfl, rfl, rfl,
        ⟨rfl, rfl, rfl, rfl, rfl, rfl⟩⟩⟩

/-- Running a list whose requests are all answered `ok`, up to what follows it (41_framing.md R190, R193). -/
theorem run_append_ok (ab : State → State) (pre post : List Action) (s : State) (rest : List Answer) (d : Nat)
    (hs : pre.all Action.inSession = true) (ha : s.answers = List.replicate (asksOf pre) .ok ++ rest)
    (hd : s.delays = waitsNeeded pre + d) :
    ∃ t, run ab (pre ++ post) s = run ab post t ∧ t.answers = rest ∧ t.delays = d ∧ Ran pre s t := by
  induction pre generalizing s with
  | nil => exact ⟨s, rfl, by simpa [asksOf] using ha, by simpa [waitsNeeded] using hd, Ran.nil s⟩
  | cons a pre ih =>
    simp only [List.all_cons, Bool.and_eq_true] at hs
    have ha' : s.answers = List.replicate (asks a) .ok ++ (List.replicate (asksOf pre) .ok ++ rest) := by
      rw [← List.append_assoc, List.replicate_append_replicate]
      simpa [asksOf] using ha
    have hd' : s.delays = waits a + (waitsNeeded pre + d) := by
      simp [waitsNeeded] at hd ⊢; omega
    obtain ⟨u, he, h1a, h1d, h1⟩ := execAction_ok a s _ _ hs.1 ha' hd'
    obtain ⟨t, hr, h2a, h2d, h2⟩ := ih { u with upc := u.upc + 1 } hs.2 h1a h1d
    exact ⟨t, by simpa [run, he] using hr, h2a, h2d, h1.cons h2⟩

/-- A whole list answered `ok` ends with the response `OK`. -/
theorem run_ok (ab : State → State) (l : List Action) (s : State) (rest : List Answer) (d : Nat)
    (hs : l.all Action.inSession = true) (ha : s.answers = List.replicate (asksOf l) .ok ++ rest)
    (hd : s.delays = waitsNeeded l + d) :
    ∃ t, run ab l s = respond .ok t ∧ t.answers = rest ∧ t.delays = d ∧ Ran l s t := by
  obtain ⟨t, hr, h1, h2, h3⟩ := run_append_ok ab l [] s rest d hs ha hd
  exact ⟨t, by simpa using hr, h1, h2, h3⟩

/-- A write answered `err` cuts the list short (41_framing.md R191, R193). -/
theorem run_cut (ab : State → State) (pre post : List Action) (v : Byte) (s : State) (rest : List Answer) (d : Nat) (r : Bool)
    (hs : pre.all Action.inSession = true) (ha : s.answers = List.replicate (asksOf pre) .ok ++ .err r :: rest)
    (hd : s.delays = waitsNeeded pre + d) :
    ∃ t, run ab (pre ++ .tWrite v :: post) s =
        ab (driveFailed v r { t with answers := rest, trace := t.trace ++ [.evWrite v .err] }) ∧ t.delays = d ∧ Ran pre s t := by
  obtain ⟨t, hr, h1, h2, h3⟩ := run_append_ok ab pre (.tWrite v :: post) s _ d hs ha hd
  exact ⟨t, by rw [hr]; exact run_tWrite_err ab v post t rest r h1, h2, h3⟩

/-- The open of a list answered `err`. -/
theorem run_cut_open (ab : State → State) (pre post : List Action) (s : State) (rest : List Answer) (d : Nat) (r : Bool)
    (hs : pre.all Action.inSession = true) (ha : s.answers = List.replicate (asksOf pre) .ok ++ .err r :: rest)
    (hd : s.delays = waitsNeeded pre + d) :
    ∃ t, run ab (pre ++ .tOpen :: post) s = ab { t with answers := rest, trace := t.trace ++ [.evOpen .err] } ∧
      t.delays = d ∧ Ran pre s t := by
  obtain ⟨t, hr, h1, h2, h3⟩ := run_append_ok ab pre (.tOpen :: post) s _ d hs ha hd
  exact ⟨t, by rw [hr]; exact run_tOpen_err ab post t rest r h1, h2, h3⟩

/-- A list whose action `a` is not answered stops there, in flight (41_framing.md R192). -/
theorem run_stop (ab : State → State) (pre post : List Action) (a : Action) (s : State) (rest : List Answer) (d : Nat)
    (hs : pre.all Action.inSession = true) (ha : s.answers = List.replicate (asksOf pre) .ok ++ rest)
    (hd : s.delays = waitsNeeded pre + d)
    (hw : asks a = 1 ∧ rest = [] ∨ waits a = 1 ∧ d = 0) :
    ∃ t, run ab (pre ++ a :: post) s = t ∧ t.answers = rest ∧ t.delays = d ∧ Ran pre s t := by
  obtain ⟨t, hr, h1, h2, h3⟩ := run_append_ok ab pre (a :: post) s _ d hs ha hd
  refine ⟨t, ?_, h1, h2, h3⟩
  rw [hr]
  rcases hw with ⟨hw, rfl⟩ | ⟨hw, rfl⟩
  · exact run_unanswered ab a post t h1 hw
  · cases a <;> simp [waits] at hw
    exact run_undelayed ab _ post t h2

/-- What the environment can do to a list without a TClose: serve all of it, leave one action without its answer, or fail one
request. -/
inductive Served (l : List Action) (ans : List Answer) (n : Nat) : Prop where
  | all (rest : List Answer) (d : Nat) (ha : ans = List.replicate (asksOf l) .ok ++ rest) (hd : n = waitsNeeded l + d)
  | stop (pre : List Action) (a : Action) (post : List Action) (rest : List Answer) (d : Nat) (hl : l = pre ++ a :: post)
      (ha : ans = List.replicate (asksOf pre) .ok ++ rest) (hd : n = waitsNeeded pre + d)
      (hw : asks a = 1 ∧ rest = [] ∨ waits a = 1 ∧ d = 0)
  | cut (pre : List Action) (a : Action) (post : List Action) (r : Bool) (rest : List Answer) (d : Nat)
      (hl : l = pre ++ a :: post) (hq : asks a = 1) (ha : ans = List.replicate (asksOf pre) .ok ++ .err r :: rest)
      (hd : n = waitsNeeded pre + d)

/-- One of the three always happens (41_framing.md R193: "the only nondeterminism of an operation is the position of the first
`err`"). -/
theorem served_cases (l : List Action) (ans : List Answer) (n : Nat) : Served l ans n := by
  induction l generalizing ans n with
  | nil => exact .all ans n (by simp [asksOf]) (by simp [waitsNeeded])
  | cons a l ih =>
    have stop : (asks a = 1 ∧ ans = [] ∨ waits a = 1 ∧ n = 0) → Served (a :: l) ans n := fun h =>
      .stop [] a l ans n rfl (by simp [asksOf]) (by simp [waitsNeeded]) h
    have go : ∀ ans' n', ans = List.replicate (asks a) .ok ++ ans' → n = waits a + n' → Served (a :: l) ans n := by
      intro ans' n' ha hn
      rcases ih ans' n' with ⟨rest, d, h1, h2⟩ | ⟨pre, b, post, rest, d, h1, h2, h3, h4⟩ |
          ⟨pre, b, post, r, rest, d, h1, hb, h2, h3⟩
      · refine .all rest d ?_ ?_
        · rw [ha, h1, ← List.append_assoc, List.replicate_append_replicate]; simp [asksOf]
        · rw [hn, h2]; simp [waitsNeeded]; omega
      · refine .stop (a :: pre) b post rest d (by simp [h1]) ?_ ?_ h4
        · rw [ha, h2, ← List.append_assoc, List.replicate_append_replicate]; simp [asksOf]
        · rw [hn, h3]; simp [waitsNeeded]; omega
      · refine .cut (a :: pre) b post r rest d (by simp [h1]) hb ?_ ?_
        · rw [ha, h2, ← List.append_assoc, List.replicate_append_replicate]; simp [asksOf]
        · rw [hn, h3]; simp [waitsNeeded]; omega
    have ask : asks a = 1 → waits a = 0 → Served (a :: l) ans n := by
      intro h1 h2
      cases ans with
      | nil => exact stop (.inl ⟨h1, rfl⟩)
      | cons x ans' =>
        cases x with
        | ok => exact go ans' n (by simp [h1]) (by omega)
        | err r => exact .cut [] a l r ans' n rfl h1 (by simp [asksOf]) (by simp [waitsNeeded])
    cases a with
    | tOpen => exact ask rfl rfl
    | tWrite v => exact ask rfl rfl
    | tClose => exact go ans n (by simp [asks]) (by simp [waits])
    | setFsm f => exact go ans n (by simp [asks]) (by simp [waits])
    | wait t =>
      cases n with
      | zero => exact stop (.inr ⟨rfl, rfl⟩)
      | succ n' => exact go ans n' (by simp [asks]) (by simp [waits]; omega)

/-- EVERYTHING RUNNING A LIST CAN DO, for a list that does not end the handle: it ends with `OK`, it stands in flight at an action
without its answer, a write of it fails, or its open fails (41_framing.md R190 to R193). -/
theorem run_cases (ab : State → State) (l : List Action) (s : State) (hs : l.all Action.inSession = true) :
    (∃ t, run ab l s = respond .ok t ∧ Ran l s t) ∨
    (∃ pre a post, l = pre ++ a :: post ∧ Ran pre s (run ab l s) ∧
      (asks a = 1 ∧ (run ab l s).answers = [] ∨ waits a = 1 ∧ (run ab l s).delays = 0)) ∨
    (∃ pre v post t r rest, l = pre ++ .tWrite v :: post ∧ Ran pre s t ∧
      run ab l s = ab (driveFailed v r { t with answers := rest, trace := t.trace ++ [.evWrite v .err] })) ∨
    ∃ pre post t rest, l = pre ++ .tOpen :: post ∧ Ran pre s t ∧
      run ab l s = ab { t with answers := rest, trace := t.trace ++ [.evOpen .err] } := by
  rcases served_cases l s.answers s.delays with ⟨rest, d, ha, hd⟩ | ⟨pre, a, post, rest, d, rfl, ha, hd, hw⟩ |
      ⟨pre, a, post, r, rest, d, rfl, hq, ha, hd⟩
  · obtain ⟨t, hr, _, _, h⟩ := run_ok ab l s rest d hs ha hd
    exact .inl ⟨t, hr, h⟩
  · simp only [List.all_append, Bool.and_eq_true] at hs
    obtain ⟨t, hr, h1, h2, h⟩ := run_stop ab pre post a s rest d hs.1 ha hd hw
    subst hr
    exact .inr (.inl ⟨pre, a, post, rfl, h, by rwa [h1, h2]⟩)
  · simp only [List.all_append, Bool.and_eq_true] at hs
    cases a with
    | tWrite v =>
      obtain ⟨t, hr, _, h⟩ := run_cut ab pre post v s rest d r hs.1 ha hd
      exact .inr (.inr (.inl ⟨pre, v, post, t, r, rest, rfl, h, hr⟩))
    | tOpen =>
      obtain ⟨t, hr, _, h⟩ := run_cut_open ab pre post s rest d r hs.1 ha hd
      exact .inr (.inr (.inr ⟨pre, post, t, rest, rfl, h, hr⟩))
    | tClose => simp [asks] at hq
    | wait _ => simp [asks] at hq
    | setFsm _ => simp [asks] at hq

/-- What an operation of `Ready` does, from its action list: everything `Does` says (41_framing.md R190, R191). -/
theorem does_of_actions (i : Instr) (bl : Bool) (dc : BitVec 3) (l : List Action) (s : State)
    (he : exec i s = .next (run abortReady l { s with bl := bl, dc := dc, busy := true, upc := 0, closing := false }))
    (hp : l.all Action.plain = true) (hw : writesOf (okEvents l) = [] → l = []) : Does i bl dc (okEvents l) s := by
  constructor
  · rintro rest d ⟨ha, hd⟩
    rw [asksIn_okEvents] at ha
    rw [waitsIn_okEvents] at hd
    obtain ⟨hf, ho, hm⟩ := plain_lifecycle l hp
    obtain ⟨t, hr, h1, h2, h⟩ :=
      run_ok abortReady l { s with bl := bl, dc := dc, busy := true, upc := 0, closing := false } rest d hm ha hd
    obtain ⟨k1, k2, k3, k4, k5, k6⟩ := h.mirror
    refine ⟨respond .ok t, by rw [he, hr], ⟨by simp [h.responses], rfl, rfl, rfl⟩, h1, h2, h.trace, k4, k5, h.ioFault,
      by simp [k6], ⟨h.fsm.trans (hf _), h.tOpen.trans (ho _), k1, k2, k3, h.params, h.inbox, h.closes⟩, h.out, ?_⟩
    intro h
    rw [hw h] at hr
    have h0 := congrArg State.lcd hr
    exact h0.symm
  · intro before v after reached rest d htr ha hd
    obtain ⟨pre, post, rfl, h2, h3⟩ := okEvents_split l before v after htr
    subst h2
    rw [asksIn_okEvents] at ha
    rw [waitsIn_okEvents] at hd
    obtain ⟨hf, ho, hm⟩ := plain_lifecycle pre (by simp only [List.all_append, Bool.and_eq_true] at hp; exact hp.1)
    obtain ⟨t, hr, h2, h⟩ := run_cut abortReady pre post v
      { s with bl := bl, dc := dc, busy := true, upc := 0, closing := false } rest d reached hm ha hd
    obtain ⟨k1, k2, k3, k4, k5, k6⟩ := h.mirror
    exact ⟨_, by rw [he, hr], ⟨by simp [h.responses], rfl, rfl, rfl⟩, by simp, by simp [h2], by simp [h.trace], by simp [k4],
      by simp [k5], rfl, by simp [k6],
      ⟨by simp [h.fsm, hf], by simp [h.tOpen, ho], by simp [k1], by simp [k2], by simp [k3],
        by simp [h.params], by simp [h.inbox], by simp [h.closes]⟩,
      by simp [h.out]⟩

/-! Framing. -/

theorem asksOf_append (l l' : List Action) : asksOf (l ++ l') = asksOf l + asksOf l' := by simp [asksOf]
theorem waitsNeeded_append (l l' : List Action) : waitsNeeded (l ++ l') = waitsNeeded l + waitsNeeded l' := by
  simp [waitsNeeded]
theorem okEvents_append (l l' : List Action) : okEvents (l ++ l') = okEvents l ++ okEvents l' := by simp [okEvents]

@[simp] theorem asksOf_send (p : Params) (bl : Bool) (v : Byte) (rs : Bool) : asksOf (send p bl v rs) = 4 := rfl
@[simp] theorem waitsNeeded_send (p : Params) (bl : Bool) (v : Byte) (rs : Bool) : waitsNeeded (send p bl v rs) = 2 := rfl
@[simp] theorem plain_send (p : Params) (bl : Bool) (v : Byte) (rs : Bool) : (send p bl v rs).all Action.plain = true := rfl

theorem hiNibble_high (v : Byte) : ((hiNibble v).setWidth 8 <<< 4 : Byte) = v &&& 0xF0 := by
  revert v; decide

theorem loNibble_high (v : Byte) : ((loNibble v).setWidth 8 <<< 4 : Byte) = v <<< 4 := by
  revert v; decide

theorem joinNibbles (v : Byte) : hiNibble v ++ loNibble v = v := by
  revert v; decide

/-- The events of a sent byte are those of the spec's formula. -/
theorem okEvents_send (p : Params) (bl : Bool) (v : Byte) (rs : Bool) : okEvents (send p bl v rs) = sendTrace p bl v rs := by
  simp [okEvents, send, writeNibble, okEvent, sendTrace, nibbleTrace, xbyte, ctl, hiNibble_high, loNibble_high]

/-- The three masks of a well-formed record, by cases. -/
theorem masks_cases (p : Params) (h : p.masksWf = true) :
    ((p.rsMask = 1 ∨ p.rsMask = 2 ∨ p.rsMask = 4 ∨ p.rsMask = 8) ∧ (p.enMask = 1 ∨ p.enMask = 2 ∨ p.enMask = 4 ∨ p.enMask = 8) ∧
      (p.blMask = 1 ∨ p.blMask = 2 ∨ p.blMask = 4 ∨ p.blMask = 8)) ∧
    p.rsMask ≠ p.enMask ∧ p.rsMask ≠ p.blMask ∧ p.enMask ≠ p.blMask := by
  simp only [Params.masksWf, isControlBit, Bool.and_eq_true, Bool.or_eq_true, beq_iff_eq, bne_iff_ne] at h
  obtain ⟨⟨⟨⟨⟨h1, h2⟩, h3⟩, h4⟩, h5⟩, h6⟩ := h
  refine ⟨⟨?_, ?_, ?_⟩, h4, h5, h6⟩ <;> simp_all [or_assoc]

/-- What can be read back from an expander byte (41_framing.md R183). -/
theorem xbyte_fields (p : Params) (h : p.masksWf = true) (bl rs en : Bool) (n : Nibble) :
    (xbyte p bl n rs en &&& p.enMask != 0) = en ∧ (xbyte p bl n rs en &&& p.rsMask != 0) = rs ∧
    (xbyte p bl n rs en &&& p.blMask != 0) = bl ∧ hiNibble (xbyte p bl n rs en) = n := by
  obtain ⟨⟨h1, h2, h3⟩, h4, h5, h6⟩ := masks_cases p h
  unfold xbyte ctl
  generalize p.rsMask = r at *
  generalize p.enMask = e at *
  generalize p.blMask = b at *
  clear h
  revert n
  rcases h1 with rfl | rfl | rfl | rfl <;> rcases h2 with rfl | rfl | rfl | rfl <;>
    first
    | exact absurd rfl h4
    | (rcases h3 with rfl | rfl | rfl | rfl <;>
        first
        | exact absurd rfl h5
        | exact absurd rfl h6
        | (cases bl <;> cases rs <;> cases en <;> decide))

/-- A byte with the enable bit set latches nothing (41_framing.md R183). -/
theorem drive_high (v : Byte) (s : State) (h : (v &&& s.params.enMask != 0) = true) : drive v s = { s with out := v } := by
  unfold drive
  rw [if_neg]
  simp_all

/-- A byte with the enable bit clear after one with it set: the controller latches (41_framing.md R186). -/
theorem drive_low (v : Byte) (s : State) (h1 : (s.out &&& s.params.enMask != 0) = true)
    (h0 : (v &&& s.params.enMask != 0) = false) :
    drive v s = { s with out := v, lcd := s.lcd.latch (s.out &&& s.params.rsMask != 0) (hiNibble s.out) } := by
  unfold drive
  rw [if_pos]
  simp_all

/-- A byte with the enable bit clear after one with it clear latches nothing. -/
theorem drive_quiet (v : Byte) (s : State) (h1 : (s.out &&& s.params.enMask != 0) = false) :
    drive v s = { s with out := v } := by
  unfold drive
  rw [if_neg]
  simp_all

theorem run_high (ab : State → State) (v : Byte) (l : List Action) (s : State) (rest : List Answer)
    (h : s.answers = .ok :: rest) (hv : (v &&& s.params.enMask != 0) = true) :
    run ab (.tWrite v :: l) s =
      run ab l { s with answers := rest, trace := s.trace ++ [.evWrite v .ok], out := v, upc := s.upc + 1 } := by
  rw [run_tWrite_ok ab v l s rest h, drive_high _ _ (by exact hv)]

theorem run_low (ab : State → State) (v : Byte) (l : List Action) (s : State) (rest : List Answer)
    (h : s.answers = .ok :: rest) (h1 : (s.out &&& s.params.enMask != 0) = true) (h0 : (v &&& s.params.enMask != 0) = false) :
    run ab (.tWrite v :: l) s =
      run ab l { s with
        answers := rest
        trace := s.trace ++ [.evWrite v .ok]
        out := v
        lcd := s.lcd.latch (s.out &&& s.params.rsMask != 0) (hiNibble s.out)
        upc := s.upc + 1 } := by
  rw [run_tWrite_ok ab v l s rest h, drive_low _ _ (by exact h1) (by exact h0)]

theorem run_quiet (ab : State → State) (v : Byte) (l : List Action) (s : State) (rest : List Answer)
    (h : s.answers = .ok :: rest) (h1 : (s.out &&& s.params.enMask != 0) = false) :
    run ab (.tWrite v :: l) s =
      run ab l { s with answers := rest, trace := s.trace ++ [.evWrite v .ok], out := v, upc := s.upc + 1 } := by
  rw [run_tWrite_ok ab v l s rest h, drive_quiet _ _ (by exact h1)]

/-- Writing one nibble with everything answered: its three events, the byte left on the expander, and the controller, which
has latched the nibble and done its work (41_framing.md R182, R186). -/
theorem run_writeNibble (ab : State → State) (l : List Action) (s : State) (hm : s.params.masksWf = true) (bl rs : Bool)
    (n : Nibble) (rest : List Answer) (d : Nat) (ha : s.answers = .ok :: .ok :: rest) (hd : s.delays = d + 1) :
    run ab (writeNibble s.params bl n rs ++ l) s =
      run ab l { s with
        answers := rest
        delays := d
        trace := s.trace ++ nibbleTrace s.params bl (n.setWidth 8 <<< 4) rs
        out := xbyte s.params bl n rs false
        lcd := (s.lcd.latch rs n).settle s.screen
        upc := s.upc + 3 } := by
  simp only [writeNibble, List.cons_append, List.nil_append]
  obtain ⟨e1, r1, _, n1⟩ := xbyte_fields s.params hm bl rs true n
  obtain ⟨e0, _, _, _⟩ := xbyte_fields s.params hm bl rs false n
  rw [run_high _ _ _ _ _ ha e1, run_low _ _ _ _ rest rfl (by exact e1) (by exact e0), run_wait _ _ _ _ d (by exact hd)]
  simp only [r1, n1, List.append_assoc, Nat.add_assoc]
  simp [nibbleTrace, xbyte, ctl, State.screen]

/-- What the controller makes of one byte sent with everything answered. -/
def Lcd.takes (screen : Screen) (rs : Bool) (v : Byte) (l : Lcd) : Lcd :=
  (((l.latch rs (hiNibble v)).settle screen).latch rs (loNibble v)).settle screen

/-- Sending one byte with everything answered (41_framing.md R184). -/
theorem run_send (ab : State → State) (l : List Action) (s : State) (hm : s.params.masksWf = true) (bl rs : Bool)
    (v : Byte) (rest : List Answer) (d : Nat) (ha : s.answers = List.replicate 4 .ok ++ rest) (hd : s.delays = d + 2) :
    run ab (send s.params bl v rs ++ l) s =
      run ab l { s with
        answers := rest
        delays := d
        trace := s.trace ++ sendTrace s.params bl v rs
        out := xbyte s.params bl (loNibble v) rs false
        lcd := s.lcd.takes s.screen rs v
        upc := s.upc + 6 } := by
  simp only [send, List.append_assoc]
  rw [run_writeNibble ab _ s hm bl rs (hiNibble v) (.ok :: .ok :: rest) (d + 1) (by simpa using ha) (by omega)]
  have := run_writeNibble ab l { s with
    answers := .ok :: .ok :: rest
    delays := d + 1
    trace := s.trace ++ nibbleTrace s.params bl ((hiNibble v).setWidth 8 <<< 4) rs
    out := xbyte s.params bl (hiNibble v) rs false
    lcd := (s.lcd.latch rs (hiNibble v)).settle s.screen
    upc := s.upc + 3 } hm bl rs (loNibble v) rest d rfl rfl
  simp only at this
  rw [this]
  simp [sendTrace, hiNibble_high, loNibble_high, Lcd.takes, State.screen]

/-- What one written nibble makes of the board, whatever stood on the expander. -/
theorem board_writeNibble (p : Params) (g : Screen) (hm : p.masksWf = true) (bl rs : Bool) (n : Nibble) (b : Byte × Lcd) :
    board p g (writeNibble p bl n rs) b = (xbyte p bl n rs false, (b.2.latch rs n).settle g) := by
  obtain ⟨e1, r1, _, n1⟩ := xbyte_fields p hm bl rs true n
  obtain ⟨e0, _, _, _⟩ := xbyte_fields p hm bl rs false n
  have e1' : (xbyte p bl n rs true &&& p.enMask == 0) = false := by simpa using e1
  have e0' : (xbyte p bl n rs false &&& p.enMask == 0) = true := by simpa using e0
  simp only [board, writeNibble, List.foldl, boardStep, e1, e1', e0', r1, n1, Bool.and_false, Bool.and_self,
    Bool.false_eq_true, if_false, if_true]

/-- What one sent byte makes of the board. -/
theorem board_send (p : Params) (g : Screen) (hm : p.masksWf = true) (bl rs : Bool) (v : Byte) (b : Byte × Lcd) :
    board p g (send p bl v rs) b = (xbyte p bl (loNibble v) rs false, b.2.takes g rs v) := by
  rw [send, board_append, board_writeNibble p g hm, board_writeNibble p g hm]
  rfl

/-- A controller in step takes a sent byte as that byte, and is in step again but for what the byte does. -/
theorem Lcd.takes_synced (g : Screen) (rs : Bool) (v : Byte) (l : Lcd) (hb : l.bus = .fourBit none) (hi : l.ir = none) :
    l.takes g rs v = Lcd.byte g rs v { l with draws := l.draws + 1 } := by
  obtain ⟨bus, ir, a, b, c, d, e, f, m, h, i, j, k⟩ := l
  simp only at hb hi
  subst hb hi
  simp [Lcd.takes, Lcd.latch, Lcd.settle, joinNibbles]

end Sys2Proof.Machine
end

