-- ==== Sys2Proof/Laws/Exec.lean ====
section
/-! SUPPORT. What exec is for an operation of `Ready`: its state write, then its list (41_framing.md R190). -/

namespace Sys2Proof.Machine

/-- `S.bl` after the operation's state write (45_toggles.md R262 to R264). -/
def blAfter (i : Instr) (s : State) : Bool :=
  match i with
  | .backlightOn => true
  | .backlightOff => false
  | .backlightToggle => !s.bl
  | _ => s.bl

/-- `S.dc` after the operation's state write (45_toggles.md R266 to R274). -/
def dcAfter (i : Instr) (s : State) : BitVec 3 :=
  match i with
  | .displayOn => dcSetDisplay true s.dc
  | .displayOff => dcSetDisplay false s.dc
  | .displayToggle => dcSetDisplay (!s.dc.getLsbD 2) s.dc
  | .cursorOn => dcSetCursor true s.dc
  | .cursorOff => dcSetCursor false s.dc
  | .cursorToggle => dcSetCursor (!s.dc.getLsbD 1) s.dc
  | .blinkOn => dcSetBlink true s.dc
  | .blinkOff => dcSetBlink false s.dc
  | .blinkToggle => dcSetBlink (!s.dc.getLsbD 0) s.dc
  | _ => s.dc

/-- The state an operation of `Ready` builds and runs its list from. -/
def opStart (i : Instr) (s : State) : State :=
  { s with bl := blAfter i s, dc := dcAfter i s, busy := true, upc := 0, closing := false }

/-- An operation of `Ready` is its list, run from the state after its state write. -/
theorem exec_ready (i : Instr) (s : State) (hi : isReadyOp i = true) (hf : s.fsm = .ready)
    (hv : ∀ row col, i = .setCursor row col → cursorValid s.cols s.rows row col = true) :
    exec i s = .next (run abortReady (actionsOf i (opStart i s)) (opStart i s)) := by
  cases i <;> simp [isReadyOp, Instr.isRequest, Instr.isInit] at hi
  case setCursor row col =>
    simp only [exec, execSetCursor, inReady, hf, if_true]
    rw [if_pos (by exact hv row col rfl)]
    rfl
  case clear => simp only [exec, execClear, inReady, hf, if_true]; rfl
  case home => simp only [exec, execHome, inReady, hf, if_true]; rfl
  case writeRaw => simp only [exec, execWriteRaw, inReady, hf, if_true]; rfl
  case uploadCustomChar => simp only [exec, execUploadCustomChar, inReady, hf, if_true]; rfl
  case backlightOn => simp only [exec, execBacklightOn, backlightTo, inReady, hf, if_true]; rfl
  case backlightOff => simp only [exec, execBacklightOff, backlightTo, inReady, hf, if_true]; rfl
  case backlightToggle => simp only [exec, execBacklightToggle, backlightTo, inReady, hf, if_true]; rfl
  case displayOn => simp only [exec, execDisplayOn, dcTo, inReady, hf, if_true]; rfl
  case displayOff => simp only [exec, execDisplayOff, dcTo, inReady, hf, if_true]; rfl
  case displayToggle => simp only [exec, execDisplayToggle, dcTo, inReady, hf, if_true]; rfl
  case cursorOn => simp only [exec, execCursorOn, dcTo, inReady, hf, if_true]; rfl
  case cursorOff => simp only [exec, execCursorOff, dcTo, inReady, hf, if_true]; rfl
  case cursorToggle => simp only [exec, execCursorToggle, dcTo, inReady, hf, if_true]; rfl
  case blinkOn => simp only [exec, execBlinkOn, dcTo, inReady, hf, if_true]; rfl
  case blinkOff => simp only [exec, execBlinkOff, dcTo, inReady, hf, if_true]; rfl
  case blinkToggle => simp only [exec, execBlinkToggle, dcTo, inReady, hf, if_true]; rfl

/-- The lists of the operations of `Ready` are plain: writes and waits only. -/
theorem actionsOf_plain (i : Instr) (s : State) (hi : isReadyOp i = true) : (actionsOf i s).all Action.plain = true := by
  cases i <;> simp [isReadyOp, Instr.isRequest, Instr.isInit] at hi
  case uploadCustomChar loc pattern =>
    simp [actionsOf, uploadActions, List.all_flatMap, send, writeNibble, Action.plain]
  case backlightOn | backlightOff | backlightToggle =>
    simp only [actionsOf, blApplyActions]
    cases s.params.blApply <;> rfl
  all_goals rfl

/-- A list is a function of the parameters, the geometry and the mirror alone (41_framing.md R193). -/
theorem actionsOf_congr (i : Instr) (s t : State) (h1 : t.params = s.params) (h2 : t.bl = s.bl) (h3 : t.rows = s.rows)
    (h4 : t.font = s.font) (h5 : t.dc = s.dc) : actionsOf i t = actionsOf i s := by
  cases i <;>
    simp only [actionsOf, initActions, closeActions, clearActions, homeActions, setCursorActions, writeRawActions,
      uploadActions, blApplyActions, dispctlActions, h1, h2, h3, h4, h5]

/-- INIT's list needs 25 answers and 16 completions, has 45 actions, and none of them ends a handle (40_lifecycle_init.md R153, R157). -/
theorem initActions_needs (s : State) :
    asksOf (initActions s) = 25 ∧ waitsNeeded (initActions s) = 16 ∧ (initActions s).length = 45 ∧
      (initActions s).all Action.inSession = true := by
  refine ⟨?_, ?_, ?_, ?_⟩
  · simp only [initActions, asksOf_append, asksOf_send]; rfl
  · simp only [initActions, waitsNeeded_append, waitsNeeded_send]; rfl
  · simp [initActions, send, writeNibble]
  · simp [initActions, send, writeNibble, Action.inSession]

end Sys2Proof.Machine
end

