-- ==== Sys2Proof/Laws/Lcd.lean ====
section
/-! SUPPORT. The controller, byte by byte: what it makes of the command bytes the block emits, once in step. -/

namespace Sys2Proof.Machine

/-- A command byte does what its instruction does. -/
theorem Lcd.byte_command (g : Screen) (b : Byte) (i : Instr) (l : Lcd) (h : decodeCommand b = .ok i) :
    Lcd.byte g false b l = l.command i := by
  simp only [Lcd.byte, h]; rfl

theorem Lcd.byte_data (g : Screen) (b : Byte) (l : Lcd) : Lcd.byte g true b l = l.data g b := rfl

/-- A controller in step executes the command byte it is sent. -/
theorem Lcd.takes_command (g : Screen) (b : Byte) (i : Instr) (h : decodeCommand b = .ok i) (l : Lcd)
    (hb : l.bus = .fourBit none) (hi : l.ir = none) : l.takes g false b = Lcd.command i { l with draws := l.draws + 1 } := by
  rw [Lcd.takes_synced _ _ _ _ hb hi, Lcd.byte_command _ _ _ _ h]

/-- A controller in step stores the data byte it is sent. -/
theorem Lcd.takes_data (g : Screen) (b : Byte) (l : Lcd) (hb : l.bus = .fourBit none) (hi : l.ir = none) :
    l.takes g true b = Lcd.data g b { l with draws := l.draws + 1 } := by
  rw [Lcd.takes_synced _ _ _ _ hb hi, Lcd.byte_data]

theorem Lcd.settle_idle (g : Screen) (l : Lcd) (h : l.ir = none) : l.settle g = l := by unfold Lcd.settle; rw [h]

/-- After a wait the controller has no work left. -/
theorem Lcd.settle_ir (g : Screen) (l : Lcd) : (l.settle g).ir = none := by
  unfold Lcd.settle
  cases h : l.ir with
  | none => exact h
  | some x =>
    obtain ⟨rs, b⟩ := x
    simp only [Lcd.byte]
    cases rs
    · simp only [Bool.false_eq_true, if_false]
      cases decodeCommand b with
      | error e => rfl
      | ok i => cases i <;> rfl
    · simp only [if_true, Lcd.data]; split <;> rfl

/-- A data byte leaves everything but the pointer, the window and the memory it is stored in. -/
theorem Lcd.data_frame (g : Screen) (b : Byte) (l : Lcd) :
    (l.data g b).bus = l.bus ∧ (l.data g b).ir = l.ir ∧ (l.data g b).twoLine = l.twoLine ∧ (l.data g b).font5x10 = l.font5x10 ∧
    (l.data g b).dc = l.dc ∧ (l.data g b).increment = l.increment ∧ (l.data g b).shift = l.shift ∧
    (l.data g b).emptied = l.emptied ∧ (l.shift = false → (l.data g b).window = l.window) ∧ (l.data g b).ptr = l.nextPtr g := by
  unfold Lcd.data
  cases l.ptr <;> exact ⟨rfl, rfl, rfl, rfl, rfl, rfl, rfl, rfl, fun h => by simp [h], rfl⟩

/-- A position of the screen is its row's first address plus the column (20_memory.md R71). -/
theorem screenAddr_toNat : ∀ x ∈ [((0 : Byte), 0x00), (1, 0x40), (2, 0x14), (3, 0x54)], ∀ col : Byte, col < 20 →
    (screenAddr x.1 col).toNat = x.2 + col.toNat := by
  decide

/-- Before the last column of a row of the screen, the next address is in that row too (93_implementation_defined.md U5). -/
theorem sameRowNext_screenAddr (g : Screen) (row col : Byte) (hg : g.1 = 16 ∨ g.1 = 20) (hr : row < g.2) (h4 : g.2 ≤ 4)
    (hc : col.toNat + 1 < g.1.toNat) : sameRowNext g (screenAddr row col) = true := by
  obtain ⟨c, r⟩ := g
  simp only at hg hr h4 hc
  have hc' : col.toNat + 1 < if c = 20 then 20 else 16 := by rcases hg with rfl | rfl <;> exact hc
  have h20 : col < 20 := by rcases hg with rfl | rfl <;> bv_omega
  have hx := screenAddr_toNat
  obtain ⟨k, hk, hkr⟩ : ∃ k < 4, row = BitVec.ofNat 8 k := ⟨row.toNat, by bv_omega, by simp⟩
  have hk' : k < r.toNat := by subst hkr; bv_omega
  subst hkr
  simp only [sameRowNext, List.any_eq_true, Bool.and_eq_true, decide_eq_true_eq]
  have key : ∀ start, (BitVec.ofNat 8 k, start) ∈ [((0 : Byte), 0x00), (1, 0x40), (2, 0x14), (3, 0x54)] →
      start ∈ rowStarts.take r.toNat →
      ∃ x ∈ rowStarts.take r.toNat, x ≤ (screenAddr (BitVec.ofNat 8 k) col).toNat ∧
        (screenAddr (BitVec.ofNat 8 k) col).toNat + 1 < x + if c = 20 then 20 else 16 := fun start hm ht =>
    ⟨start, ht, by rw [hx _ hm col h20]; simp only; omega⟩
  have hmem : ∀ start, rowStarts[k]? = some start → start ∈ rowStarts.take r.toNat := fun start hs =>
    List.mem_of_getElem? (i := k) (by rw [List.getElem?_take_of_lt hk', hs])
  interval_cases k
  · exact key 0x00 (by decide) (hmem _ rfl)
  · exact key 0x40 (by decide) (hmem _ rfl)
  · exact key 0x14 (by decide) (hmem _ rfl)
  · exact key 0x54 (by decide) (hmem _ rfl)

theorem board_wait (p : Params) (g : Screen) (t : Delay) (l : List Action) (b : Byte × Lcd) :
    board p g (.wait t :: l) b = board p g l (b.1, b.2.settle g) := rfl
theorem board_setFsm (p : Params) (g : Screen) (f : Fsm) (l : List Action) (b : Byte × Lcd) :
    board p g (.setFsm f :: l) b = board p g l b := rfl
theorem board_tOpen (p : Params) (g : Screen) (l : List Action) (b : Byte × Lcd) : board p g (.tOpen :: l) b = board p g l b := rfl
theorem board_nil (p : Params) (g : Screen) (b : Byte × Lcd) : board p g [] b = b := rfl

/-- The command bytes at the default literals (00_scope.md R9, 30_encoding.md R110 to R115). -/
theorem std_bytes {p : Params} (h : p.stdCommands = true) :
    p.cmdClear = 1 ∧ p.cmdHome = 2 ∧ (∀ dc, cbDispctl p dc = 0x08 ||| dc.setWidth 8) ∧ cbEntry p = 6 ∧
    (∀ rows font, cbFuncset p rows font = 0x20 ||| (if 1 < rows then 8 else 0) ||| (if font then 4 else 0)) := by
  simp [Params.stdCommands] at h
  obtain ⟨⟨⟨⟨⟨⟨⟨⟨⟨⟨⟨⟨⟨h1, h2⟩, h3⟩, h4⟩, h5⟩, h6⟩, h7⟩, h8⟩, h9⟩, h10⟩, h11⟩, h12⟩, h13⟩, h14⟩ := h
  refine ⟨h1, h2, ?_, ?_, ?_⟩
  · intro dc; unfold cbDispctl; rw [h5, h6, h7, h8]; revert dc; decide
  · unfold cbEntry; rw [h3, h4]; rfl
  · intro rows font; unfold cbFuncset; rw [h9, h10, h11, h12, h13, h14]; rfl

/-- The display-control byte is that command, with the three bits it carries. -/
theorem decode_dispctl (dc : BitVec 3) : ∃ d c b, decodeCommand (0x08 ||| dc.setWidth 8) = .ok (.lcdDisplayControl d c b) ∧
    BitVec.ofBool d ++ (BitVec.ofBool c ++ BitVec.ofBool b) = dc := by
  revert dc; decide

/-- The CGRAM address byte is that command, at row 0 of the glyph. -/
theorem decode_cgram (loc : Byte) : decodeCommand (cbCgram loc) = .ok (.lcdSetCgramAddr (loc.setWidth 3) 0) := by
  revert loc; decide

theorem decode_ddram_all : ∀ row ∈ ([0, 1, 2, 3] : List Byte), ∀ col : Byte, col < 20 →
    decodeCommand (cbDdram row col) = .ok (.lcdSetDdramAddr
      ((if row = 0 then 0x00 else if row = 1 then 0x40 else if row = 2 then 0x14 else 0x54) + col.setWidth 7)) := by
  decide

end Sys2Proof.Machine
end

