-- ==== Sys2Proof/Laws/PerInstr.lean ====
section
/-! SUPPORT. Per instruction: the word of a request is one that a row of the opcode table takes, and the byte of a command is
not 0x00, which is no command (30_encoding.md R105, R120). -/

namespace Sys2Proof.Laws.MatchesRow

/-- The encoding of `i` matches the table. -/
def Statement (i : Instr) : Prop :=
  match encode i with
  | .request w => ∃ r ∈ requestRows, r.takes w = true
  | .command b => b ≠ 0

theorem init (cols rows : Byte) (font : BitVec 4) (bl0 : Bool) : Statement (.init cols rows font bl0) := by
  refine ⟨⟨"INIT", 0x010000000000000000000000, 0xFF00000EFFFFFFFFFFFFFFFF⟩, by decide, ?_⟩
  rw [takes_iff, show (0xFF00000EFFFFFFFFFFFFFFFF : Word) = packWord 0xFF 0 0 0x0E 0xFFFFFFFFFFFFFFFF from rfl, show (0x010000000000000000000000 : Word) = packWord 0x01 0 0 0 0 from rfl]
  simp only [packWord_op, packWord_a, packWord_b, packWord_c, packWord_p]
  exact ⟨by decide, BitVec.and_zero, BitVec.and_zero, by revert font bl0; decide, by decide⟩

theorem close : Statement .close := by
  exact ⟨⟨"CLOSE", packN 0x02, 0xFFFFFFFFFFFFFFFFFFFFFFFF⟩, by decide, takes_packN _ _⟩

theorem clear : Statement .clear := by
  exact ⟨⟨"CLEAR", packN 0x10, 0xFFFFFFFFFFFFFFFFFFFFFFFF⟩, by decide, takes_packN _ _⟩

theorem home : Statement .home := by
  exact ⟨⟨"HOME", packN 0x11, 0xFFFFFFFFFFFFFFFFFFFFFFFF⟩, by decide, takes_packN _ _⟩

theorem setCursor (row col : Byte) : Statement (.setCursor row col) := by
  refine ⟨⟨"SET_CURSOR", 0x120000000000000000000000, 0xFF0000FFFFFFFFFFFFFFFFFF⟩, by decide, ?_⟩
  rw [takes_iff, show (0xFF0000FFFFFFFFFFFFFFFFFF : Word) = packWord 0xFF 0 0 0xFF 0xFFFFFFFFFFFFFFFF from rfl, show (0x120000000000000000000000 : Word) = packWord 0x12 0 0 0 0 from rfl]
  simp only [packWord_op, packWord_a, packWord_b, packWord_c, packWord_p]
  exact ⟨by decide, BitVec.and_zero, BitVec.and_zero, by decide, by decide⟩

theorem writeRaw (code : Byte) : Statement (.writeRaw code) := by
  refine ⟨⟨"WRITE_RAW", 0x130000000000000000000000, 0xFFFFFF00FFFFFFFFFFFFFFFF⟩, by decide, ?_⟩
  rw [takes_iff, show (0xFFFFFF00FFFFFFFFFFFFFFFF : Word) = packWord 0xFF 0xFF 0xFF 0 0xFFFFFFFFFFFFFFFF from rfl, show (0x130000000000000000000000 : Word) = packWord 0x13 0 0 0 0 from rfl]
  simp only [packWord_op, packWord_a, packWord_b, packWord_c, packWord_p]
  exact ⟨by decide, by decide, by decide, BitVec.and_zero, by decide⟩

theorem uploadCustomChar (loc : Byte) (pattern : List Byte) : Statement (.uploadCustomChar loc pattern) := by
  refine ⟨⟨"UPLOAD_CUSTOM_CHAR", 0x140000000000000000000000, 0xFF00FFFF0000000000000000⟩, by decide, ?_⟩
  rw [takes_iff, show (0xFF00FFFF0000000000000000 : Word) = packWord 0xFF 0 0xFF 0xFF 0 from rfl, show (0x140000000000000000000000 : Word) = packWord 0x14 0 0 0 0 from rfl]
  simp only [packWord_op, packWord_a, packWord_b, packWord_c, packWord_p]
  exact ⟨by decide, BitVec.and_zero, by decide, by decide, BitVec.and_zero⟩

theorem backlightOn : Statement .backlightOn := by
  exact ⟨⟨"BACKLIGHT_ON", packN 0x20, 0xFFFFFFFFFFFFFFFFFFFFFFFF⟩, by decide, takes_packN _ _⟩

theorem backlightOff : Statement .backlightOff := by
  exact ⟨⟨"BACKLIGHT_OFF", packN 0x21, 0xFFFFFFFFFFFFFFFFFFFFFFFF⟩, by decide, takes_packN _ _⟩

theorem backlightToggle : Statement .backlightToggle := by
  exact ⟨⟨"BACKLIGHT_TOGGLE", packN 0x22, 0xFFFFFFFFFFFFFFFFFFFFFFFF⟩, by decide, takes_packN _ _⟩

theorem displayOn : Statement .displayOn := by
  exact ⟨⟨"DISPLAY_ON", packN 0x24, 0xFFFFFFFFFFFFFFFFFFFFFFFF⟩, by decide, takes_packN _ _⟩

theorem displayOff : Statement .displayOff := by
  exact ⟨⟨"DISPLAY_OFF", packN 0x25, 0xFFFFFFFFFFFFFFFFFFFFFFFF⟩, by decide, takes_packN _ _⟩

theorem displayToggle : Statement .displayToggle := by
  exact ⟨⟨"DISPLAY_TOGGLE", packN 0x26, 0xFFFFFFFFFFFFFFFFFFFFFFFF⟩, by decide, takes_packN _ _⟩

theorem cursorOn : Statement .cursorOn := by
  exact ⟨⟨"CURSOR_ON", packN 0x28, 0xFFFFFFFFFFFFFFFFFFFFFFFF⟩, by decide, takes_packN _ _⟩

theorem cursorOff : Statement .cursorOff := by
  exact ⟨⟨"CURSOR_OFF", packN 0x29, 0xFFFFFFFFFFFFFFFFFFFFFFFF⟩, by decide, takes_packN _ _⟩

theorem cursorToggle : Statement .cursorToggle := by
  exact ⟨⟨"CURSOR_TOGGLE", packN 0x2A, 0xFFFFFFFFFFFFFFFFFFFFFFFF⟩, by decide, takes_packN _ _⟩

theorem blinkOn : Statement .blinkOn := by
  exact ⟨⟨"BLINK_ON", packN 0x2C, 0xFFFFFFFFFFFFFFFFFFFFFFFF⟩, by decide, takes_packN _ _⟩

theorem blinkOff : Statement .blinkOff := by
  exact ⟨⟨"BLINK_OFF", packN 0x2D, 0xFFFFFFFFFFFFFFFFFFFFFFFF⟩, by decide, takes_packN _ _⟩

theorem blinkToggle : Statement .blinkToggle := by
  exact ⟨⟨"BLINK_TOGGLE", packN 0x2E, 0xFFFFFFFFFFFFFFFFFFFFFFFF⟩, by decide, takes_packN _ _⟩

theorem lcdClear : Statement .lcdClear := by
  show (0x01 : Byte) ≠ 0; decide

theorem lcdHome (ignored : BitVec 1) : Statement (.lcdHome ignored) := by
  show (1#7 ++ ignored : BitVec (7 + 1)) ≠ 0; revert ignored; decide

theorem lcdEntryMode (increment shift : Bool) : Statement (.lcdEntryMode increment shift) := by
  show (1#6 ++ (BitVec.ofBool increment ++ BitVec.ofBool shift) : BitVec (6 + 2)) ≠ 0; revert increment shift; decide

theorem lcdDisplayControl (display cursor blink : Bool) : Statement (.lcdDisplayControl display cursor blink) := by
  show (1#5 ++ (BitVec.ofBool display ++ (BitVec.ofBool cursor ++ BitVec.ofBool blink)) : BitVec (5 + 3)) ≠ 0
  revert display cursor blink; decide

theorem lcdShift (unused : BitVec 4) : Statement (.lcdShift unused) := by
  show (1#4 ++ unused : BitVec (4 + 4)) ≠ 0; revert unused; decide

theorem lcdFunctionSet (eightBit twoLine font5x10 : Bool) (ignored : BitVec 2) : Statement (.lcdFunctionSet eightBit twoLine font5x10 ignored) := by
  show (1#3 ++ (BitVec.ofBool eightBit ++ (BitVec.ofBool twoLine ++ (BitVec.ofBool font5x10 ++ ignored))) : BitVec (3 + 5)) ≠ 0
  revert eightBit twoLine font5x10 ignored; decide

theorem lcdSetCgramAddr (glyph glyphRow : BitVec 3) : Statement (.lcdSetCgramAddr glyph glyphRow) := by
  show (1#2 ++ (glyph ++ glyphRow) : BitVec (2 + 6)) ≠ 0; revert glyph glyphRow; decide

theorem lcdSetDdramAddr (address : BitVec 7) : Statement (.lcdSetDdramAddr address) := by
  show (1#1 ++ address : BitVec (1 + 7)) ≠ 0; revert address; decide

end Sys2Proof.Laws.MatchesRow
end

