-- ==== Sys2Proof/Machine/Assembly.lean ====
section
/-! DEFINITION. The spec's notation for requests (30_encoding.md R130): a mnemonic and numbers in field order. The words a
field may be written with are numbers here: `5x8` is 0, `5x10` is 1, `off` is 0, `on` is 1. Notation adds no behaviour. -/

namespace Sys2Proof

/-- A request as it is written, from its mnemonic and operands; an operand too large for its field is no request. -/
def assemble : String → List Nat → Option Instr
  | "INIT", [cols, rows, font, bl0] =>
    if cols < 256 ∧ rows < 256 ∧ font < 16 ∧ bl0 < 2 then
      some (.init (BitVec.ofNat 8 cols) (BitVec.ofNat 8 rows) (BitVec.ofNat 4 font) (bl0 == 1))
    else none
  | "SET_CURSOR", [row, col] =>
    if row < 256 ∧ col < 256 then some (.setCursor (BitVec.ofNat 8 row) (BitVec.ofNat 8 col)) else none
  | "WRITE_RAW", [code] => if code < 256 then some (.writeRaw (BitVec.ofNat 8 code)) else none
  | "UPLOAD_CUSTOM_CHAR", loc :: pattern =>
    if loc < 256 ∧ pattern.length = 8 ∧ ∀ b ∈ pattern, b < 256 then
      some (.uploadCustomChar (BitVec.ofNat 8 loc) (pattern.map (BitVec.ofNat 8)))
    else none
  | "CLOSE", [] => some .close
  | "CLEAR", [] => some .clear
  | "HOME", [] => some .home
  | "BACKLIGHT_ON", [] => some .backlightOn
  | "BACKLIGHT_OFF", [] => some .backlightOff
  | "BACKLIGHT_TOGGLE", [] => some .backlightToggle
  | "DISPLAY_ON", [] => some .displayOn
  | "DISPLAY_OFF", [] => some .displayOff
  | "DISPLAY_TOGGLE", [] => some .displayToggle
  | "CURSOR_ON", [] => some .cursorOn
  | "CURSOR_OFF", [] => some .cursorOff
  | "CURSOR_TOGGLE", [] => some .cursorToggle
  | "BLINK_ON", [] => some .blinkOn
  | "BLINK_OFF", [] => some .blinkOff
  | "BLINK_TOGGLE", [] => some .blinkToggle
  | _, _ => none

end Sys2Proof
end

