-- ==== Sys2Proof/Tests/Slice0.lean ====
section
/-! SUPPORT. The model's own tests: ill-formed terms refused, words written out from the spec's encodings, one step per
instruction with the spec's worked bytes (R158, R210 to R274, 95_test_vectors.md), and for each statement with hypotheses
a concrete state that meets them. -/

open Sys2Proof Sys2Proof.Machine

namespace Sys2Proof.Tests

/-! Helpers. -/

/-- A 16x2 display in `Ready`, backlight on, display on, its controller in step. -/
def ready : State :=
  { State.reset with
    fsm := .ready, tOpen := true, cols := 16, rows := 2, bl := true, dc := 0b100, out := 0x08
    lcd := { Lcd.reset with bus := .fourBit none, twoLine := true, dc := 0b100, emptied := true }
    answers := List.replicate 40 .ok, delays := 20, closes := 2 }

/-- A block just out of reset, with everything answered. -/
def fresh : State := { State.reset with answers := List.replicate 25 .ok, delays := 16, closes := 1 }

/-- What the host and the expander see of a step with one request: the response and the bytes written. -/
def seen (s : State) (w : Nat) : Option (List Response × List Byte) :=
  match step (s.withFetchWord 96 w) with
  | .next t => some (t.responses, writesOf t.trace)
  | .fault _ => none
  | .refused _ => none

/-- A field of the next state. -/
def after {α : Type} (s : State) (nbits w : Nat) (f : State → α) : Option α :=
  match step (s.withFetchWord nbits w) with
  | .next t => some (f t)
  | .fault _ => none
  | .refused _ => none

/-- `s` with exactly what the trace `tr` needs. -/
def fed (tr : List Event) (s : State) : State :=
  { s with answers := List.replicate (asksIn tr) .ok, delays := waitsIn tr }

/-- `s` with what the trace `before` needs, and an `err` after it. -/
def failing (before : List Event) (s : State) : State :=
  { s with answers := List.replicate (asksIn before) .ok ++ [.err true], delays := waitsIn before }

/-! Ill-formed terms are refused. -/

theorem test_wf_glyph_seven : (Instr.uploadCustomChar 1 [1, 2, 3, 4, 5, 6, 7]).wf = false := by decide
theorem test_wf_glyph_nine : (Instr.uploadCustomChar 1 [1, 2, 3, 4, 5, 6, 7, 8, 9]).wf = false := by decide
theorem test_wf_glyph_eight : (Instr.uploadCustomChar 1 [1, 2, 3, 4, 5, 6, 7, 8]).wf = true := by decide
theorem test_wf_mask_two_bits : { Params.default with rsMask := 0x03 }.wf = false := by decide
theorem test_wf_mask_high : { Params.default with enMask := 0x10 }.wf = false := by decide
theorem test_wf_masks_shared : { Params.default with blMask := 0x04 }.wf = false := by decide
theorem test_wf_masks_apart : { Params.default with rsMask := 0x02, enMask := 0x01, blMask := 0x04 }.wf = true := by decide
theorem test_wf_power_on : { Params.default with tPowerOn := 29999 }.wf = false := by decide
theorem test_wf_boot1 : { Params.default with tBoot1 := 4999 }.wf = false := by decide
theorem test_wf_boot1_fixed : { Params.default with tBoot1 := 5001 }.wf = false := by decide
theorem test_wf_boot2 : { Params.default with tBoot2 := 99 }.wf = false := by decide
theorem test_wf_settle : { Params.default with tSettle := 39 }.wf = false := by decide
theorem test_wf_clear : { Params.default with tClear := 1999 }.wf = false := by decide
theorem test_wf_funcset4 : { Params.default with fs4bit := 0x10 }.wf = false := by decide
theorem test_wf_funcset8 : { Params.default with fs8bit := 0x00 }.wf = false := by decide
theorem test_params_refused :
    step { State.reset with params := { Params.default with rsMask := 0x04 } } = .refused .badParameters := rfl

/-! Words from the spec's encodings (30_encoding.md R101, R105, R120 and the operations' own rules). -/

theorem test_decode_init : decodeTableWord 96 0x011002010000000000000000 = some (.init 16 2 0 true) := by decide
theorem test_decode_init_font : decodeTableWord 96 0x011001100000000000000000 = some (.init 16 1 1 false) := by decide
theorem test_decode_close : decodeTableWord 96 0x020000000000000000000000 = some .close := by decide
theorem test_decode_home : decodeTableWord 96 0x110000000000000000000000 = some .home := by decide
theorem test_decode_cursor : decodeTableWord 96 0x120105000000000000000000 = some (.setCursor 1 5) := by decide
theorem test_decode_raw : decodeTableWord 96 0x130000480000000000000000 = some (.writeRaw 0x48) := by decide
theorem test_decode_upload : decodeTableWord 96 0x14010000040E1F0404040400 =
    some (.uploadCustomChar 1 [0x04, 0x0E, 0x1F, 0x04, 0x04, 0x04, 0x04, 0x00]) := by decide
theorem test_decode_toggle : decodeTableWord 96 0x2A0000000000000000000000 = some .cursorToggle := by decide
theorem test_decode_hole : decodeTableWord 96 0x230000000000000000000000 = none := by decide
theorem test_decode_reserved : decodeRequest 0x011002030000000000000000 = .error .reservedNotZero := by decide
theorem test_decode_lcd_function : decodeTableWord 8 0x28 = some (.lcdFunctionSet false true false 0) := by decide
theorem test_decode_lcd_glyph : decodeTableWord 8 0x4B = some (.lcdSetCgramAddr 1 3) := by decide
theorem test_decode_lcd_none : decodeCommand 0x00 = .error .noCommand := by decide
theorem test_encode_upload : encode (.uploadCustomChar 1 [0x04, 0x0E, 0x1F, 0x04, 0x04, 0x04, 0x04, 0x00]) =
    .request 0x14010000040E1F0404040400 := by decide

theorem test_assemble_init : (assemble "INIT" [16, 2, 0, 1]).map encode = some (.request 0x011002010000000000000000) := by
  decide
theorem test_assemble_upload : (assemble "UPLOAD_CUSTOM_CHAR" [1, 4, 14, 31, 4, 4, 4, 4, 0]).map encode =
    some (.request 0x14010000040E1F0404040400) := by decide

/-! One step. The bytes are those of the rule's own example. -/

theorem test_init_bytes : seen fresh 0x011002010000000000000000 = some ([.ok],
    [0x3C, 0x38, 0x3C, 0x38, 0x3C, 0x38, 0x2C, 0x28, 0x2C, 0x28, 0x8C, 0x88, 0x0C, 0x08, 0xCC, 0xC8, 0x0C, 0x08, 0x6C, 0x68,
     0x0C, 0x08, 0x1C, 0x18]) := by decide
theorem test_init_invalid : seen fresh 0x011102010000000000000000 = some ([.invalidArgument], []) := by decide
theorem test_close_ready : after ready 96 0x020000000000000000000000 (fun t => (t.fsm, t.tOpen, t.trace)) =
    some (.closed, false, [.evClose]) := by decide
theorem test_close_twice :
    step ({ ready with fsm := .closed }.withFetchWord 96 0x020000000000000000000000) = .fault .doubleClose := rfl
/-- A TClose that the transport does not complete holds CLOSE, the transport still open (R192, R40); its completion lets it end. -/
theorem test_close_waits :
    let s := { ready with closes := 0 }
    after s 96 0x020000000000000000000000 (fun t => (t.fsm, t.tOpen, t.busy, t.trace)) = some (.ready, true, true, []) ∧
    after { s with inbox := [.env (.closes 1)] } 96 0x020000000000000000000000 (fun t =>
      match step t with
      | .next u => (u.fsm, u.busy, u.trace, u.responses)
      | .fault _ | .refused _ => (.ready, true, [], [])) = some (.closed, false, [.evClose], [.ok]) := by decide
theorem test_clear : seen ready 0x100000000000000000000000 = some ([.ok], [0x0C, 0x08, 0x1C, 0x18]) := by decide
theorem test_clear_waits : after ready 96 0x100000000000000000000000 (fun t => waitsOf t.trace) =
    some [.settle, .settle, .clear] := by decide
theorem test_home : seen ready 0x110000000000000000000000 = some ([.ok], [0x0C, 0x08, 0x2C, 0x28]) := by decide
theorem test_cursor : seen ready 0x120105000000000000000000 = some ([.ok], [0xCC, 0xC8, 0x5C, 0x58]) := by decide
theorem test_cursor_row : seen ready 0x120205000000000000000000 = some ([.invalidArgument], []) := by decide
theorem test_raw : seen ready 0x130000480000000000000000 = some ([.ok], [0x4D, 0x49, 0x8D, 0x89]) := by decide
theorem test_raw_stored : after ready 96 0x130000480000000000000000 (fun t => (t.lcd.ddram, t.lcd.ptr)) =
    some ([(0, 0x48)], .ddram 1) := by decide
/-- Within the columns of the screen the pointer steps by one; past them it does not step to a known address (U5). -/
theorem test_row_end : sameRowNext (16, 2) 14 = true ∧ sameRowNext (16, 2) 15 = false ∧ sameRowNext (16, 2) 0x4E = true ∧
    sameRowNext (16, 2) 0x4F = false ∧ sameRowNext (16, 2) 0x14 = false ∧ sameRowNext (20, 4) 18 = true ∧
    sameRowNext (20, 4) 19 = false ∧ sameRowNext (20, 4) 0x66 = true ∧ sameRowNext (20, 4) 0x67 = false := by decide
theorem test_upload : (seen ready 0x14010000040E1F0404040400).map (fun r => r.2.take 8) =
    some [0x4C, 0x48, 0x8C, 0x88, 0x0D, 0x09, 0x4D, 0x49] := by decide
/-- The eight rows, and the pointer "left at the final CGRAM row" (R233). -/
theorem test_upload_stored : after ready 96 0x14090000040E1F0404040400 (fun t => (t.lcd.cgram, t.lcd.ptr)) =
    some ([(8, 0x04), (9, 0x0E), (10, 0x1F), (11, 0x04), (12, 0x04), (13, 0x04), (14, 0x04), (15, 0x00)], .cgram 15) := by decide
theorem test_backlight_on : seen { ready with bl := false } 0x200000000000000000000000 =
    some ([.ok], [0x0C, 0x08, 0xCC, 0xC8]) := by decide
theorem test_backlight_off : seen ready 0x210000000000000000000000 = some ([.ok], [0x04, 0x00, 0xC4, 0xC0]) := by decide
theorem test_backlight_toggle : after ready 96 0x220000000000000000000000 (fun t => (t.bl, writesOf t.trace)) =
    some (false, [0x04, 0x00, 0xC4, 0xC0]) := by decide
theorem test_backlight_bare :
    seen { ready with params := { Params.default with blApply := .bareWrite } } 0x210000000000000000000000 =
      some ([.ok], [0x00]) := by decide
theorem test_display_on : seen { ready with dc := 0b000 } 0x240000000000000000000000 =
    some ([.ok], [0x0C, 0x08, 0xCC, 0xC8]) := by decide
theorem test_display_off : seen ready 0x250000000000000000000000 = some ([.ok], [0x0C, 0x08, 0x8C, 0x88]) := by decide
theorem test_display_toggle : after ready 96 0x260000000000000000000000 (fun t => t.dc) = some 0b000 := by decide
theorem test_cursor_on : seen ready 0x280000000000000000000000 = some ([.ok], [0x0C, 0x08, 0xEC, 0xE8]) := by decide
theorem test_cursor_off : after { ready with dc := 0b110 } 96 0x290000000000000000000000 (fun t => t.dc) = some 0b100 := by
  decide
theorem test_cursor_toggle : after ready 96 0x2A0000000000000000000000 (fun t => t.dc) = some 0b110 := by decide
theorem test_blink_on : seen ready 0x2C0000000000000000000000 = some ([.ok], [0x0C, 0x08, 0xDC, 0xD8]) := by decide
theorem test_blink_off : after { ready with dc := 0b101 } 96 0x2D0000000000000000000000 (fun t => t.dc) = some 0b100 := by
  decide
theorem test_blink_toggle : after ready 96 0x2E0000000000000000000000 (fun t => t.dc) = some 0b101 := by decide
theorem test_illegal : seen ready 0x2B0000000000000000000000 = some ([.illegalRequest], []) := by decide
theorem test_lcd_clear : after ready 8 0x01 (fun t => (t.lcd.emptied, t.lcd.ptr)) = some (true, .ddram 0) := by decide
theorem test_lcd_home : after ready 8 0x02 (fun t => (match t.lcd.ptr with | .ddram _ => true | .cgram _ => false)) =
    some true := by decide
theorem test_lcd_entry : after ready 8 0x05 (fun t => (t.lcd.increment, t.lcd.shift)) = some (false, true) := by decide
theorem test_lcd_display : after ready 8 0x0A (fun t => t.lcd.dc) = some 0b010 := by decide
theorem test_lcd_shift : after ready 8 0x1C (fun t => (t.lcd.ddram, t.lcd.dc)) = some ([], 0b100) := by decide
theorem test_lcd_function : after ready 8 0x34 (fun t => (t.lcd.bus, t.lcd.twoLine, t.lcd.font5x10)) =
    some (.eightBit, false, true) := by decide
theorem test_lcd_cgram : after ready 8 0x7F (fun t => t.lcd.ptr) = some (.cgram 63) := by decide
theorem test_lcd_ddram : after ready 8 0xC5 (fun t => t.lcd.ptr) = some (.ddram 0x45) := by decide

/-- A location that holds a code below 8 shows the low five bits of that glyph's rows (R241 (a), R72). -/
theorem test_glyph_shown :
    let l := { ready.lcd with ddram := [(3, 0x02), (4, 0x41)], cgram := [(17, 0xEA)] }
    l.dots 3 1 = some 0b01010 ∧ l.dots 3 2 = none ∧ l.dots 4 1 = none := by decide

/-- The abort of INIT after an `err` to its first write (R156). -/
theorem test_init_abort :
    after { fresh with answers := [.ok, .err false] } 96 0x011002010000000000000000
      (fun t => (t.fsm, t.ioFault, t.tOpen, t.trace)) =
      some (.uninitialized, true, false, [.evOpen .ok, .evWait .powerOn, .evWrite 0x3C .err, .evClose]) := by decide

/-- That abort while the transport does not complete its TClose (R192): no response yet; with the completion it ends. -/
theorem test_init_abort_waits :
    let s := { fresh with answers := [.ok, .err false], closes := 0 }
    after s 96 0x011002010000000000000000 (fun t => (t.fsm, t.tOpen, t.busy, t.responses)) =
      some (.eightBitBoot, true, true, []) ∧
    after { s with inbox := [.env (.closes 1)] } 96 0x011002010000000000000000 (fun t =>
      match step t with
      | .next u => (u.fsm, u.ioFault, u.responses)
      | .fault _ | .refused _ => (.ready, false, [])) = some (.uninitialized, true, [.ioError]) := by decide

/-- An `err` leaves the mirrored bit written all the same (R191, R261). -/
theorem test_abort_keeps_bl :
    after { ready with answers := [.err false] } 96 0x210000000000000000000000 (fun t => (t.responses, t.bl, t.ioFault)) =
      some ([.ioError], false, true) := by decide

/-! For each statement with hypotheses, a concrete state that meets them. -/

theorem test_fed (tr : List Event) (s : State) : Serves (asksIn tr) (waitsIn tr) (fed tr s) [] 0 := by
  simp [Serves, fed]

/-- The premises of `Does` on `tr`: served in full, and cut at the write that stands at index `k`. -/
def meets (tr : List Event) (k : Nat) (s : State) : Prop :=
  Serves (asksIn tr) (waitsIn tr) (fed tr s) [] 0 ∧ (fed tr s).fsm = s.fsm ∧ (failing (tr.take k) s).fsm = s.fsm ∧
  ∃ v after, tr = tr.take k ++ .evWrite v .ok :: after ∧
    (failing (tr.take k) s).answers = List.replicate (asksIn (tr.take k)) .ok ++ .err true :: [] ∧
    (failing (tr.take k) s).delays = waitsIn (tr.take k) + 0

theorem test_meets (tr : List Event) (k : Nat) (s : State) (v : Byte) (h : tr[k]? = some (.evWrite v .ok)) : meets tr k s := by
  refine ⟨test_fed tr s, rfl, rfl, v, tr.drop (k + 1), ?_, rfl, rfl⟩
  obtain ⟨hk, he⟩ := List.getElem?_eq_some_iff.1 h
  rw [← he, ← List.drop_eq_getElem_cons hk, List.take_append_drop]

theorem test_witness_DecodeOfEncode : (Instr.init 255 255 15 true).wf = true ∧
    (Instr.uploadCustomChar 255 [0, 1, 2, 3, 4, 5, 6, 255]).wf = true ∧ (Instr.lcdSetDdramAddr 127).wf = true := by decide
theorem test_witness_EncodeOfDecode : decode (.request 0x01FFFFF10000000000000000) = .ok (.init 255 255 15 true) ∧
    decode (.command 0xFF) = .ok (.lcdSetDdramAddr 127) := by decide
theorem test_witness_StepRunsRequest :
    let s := State.reset.withFetchWord 96 0x020000000000000000000000
    s.params.wf = true ∧ s.lcd.ir = none ∧ s.busy = false ∧ s.inbox = .request 0x020000000000000000000000 :: [] ∧
      decodeRequest 0x020000000000000000000000 = .ok .close := by decide
theorem test_witness_StepRunsCommand :
    let s := State.reset.withFetchWord 8 0x01
    s.params.wf = true ∧ s.lcd.ir = some (false, 0x01) ∧ decodeCommand 0x01 = .ok .lcdClear ∧
      (State.reset.withFetchWord 8 0x00).lcd.ir = some (false, 0x00) ∧ decodeCommand 0x00 = .error .noCommand ∧
      { State.reset.lcd with ir := some (true, 0x48) }.ir = some (true, 0x48) := by decide
theorem test_witness_IllegalRequestHasNoEffect :
    let s := ready.withFetchWord 96 0x230000000000000000000000
    s.params.wf = true ∧ s.lcd.ir = none ∧ s.busy = false ∧ s.inbox = .request 0x230000000000000000000000 :: [] ∧
      ∀ r ∈ requestRows, r.takes 0x230000000000000000000000 = false := by decide
theorem test_witness_BadParametersAreRefused :
    { State.reset with params := { Params.default with enMask := 0 } }.params.wf = false := by decide
theorem test_witness_IdleRunsNothing :
    State.reset.params.wf = true ∧ State.reset.lcd.ir = none ∧ State.reset.busy = false ∧ State.reset.inbox = [] := by decide
/-- Idle; in flight at a write that lowers enable (action 1 of CLEAR) and at one that raises it (action 0); at a wait (action 2);
at CLOSE's TClose. -/
theorem test_witness_HardwareReset :
    let idle := { ready with inbox := [.env (.reset true)] }
    let busy := { idle with busy := true, req := 0x100000000000000000000000 }
    let low := { busy with upc := 1, out := 0x0C }
    let late := { busy with upc := 2 }
    let shut := { busy with req := 0x020000000000000000000000, closing := true }
    idle.params.wf = true ∧ idle.lcd.ir = none ∧ idle.inbox = .env (.reset true) :: [] ∧ idle.busy = false ∧
    busy.busy = true ∧ busy.closing = false ∧ decodeRequest busy.req = .ok .clear ∧
    (actionsOf .clear busy)[busy.upc]? = some (.tWrite 0x0C) ∧ (actionsOf .clear low)[low.upc]? = some (.tWrite 0x08) ∧
    enableHigh low.params low.out = true ∧ enableHigh low.params 0x08 = false ∧
    (actionsOf .clear late)[late.upc]? = some (.wait .settle) ∧ shut.closing = true := by decide
/-- At a write, at a wait, at CLOSE's TClose and at that of INIT's abort. -/
theorem test_witness_HangsWithoutAnswer :
    let s := { ready with
      busy := true, req := 0x100000000000000000000000, answers := [], delays := 0, closes := 0, inbox := [.request 0] }
    let late := { s with upc := 2 }
    let shut := { s with req := 0x020000000000000000000000, closing := true }
    let abort := { s with req := 0x011002010000000000000000, fsm := .eightBitBoot, upc := 3, closing := true }
    s.params.wf = true ∧ s.lcd.ir = none ∧ s.busy = true ∧ (∀ e ∈ s.inbox, e = .request 0) ∧ decodeRequest s.req = .ok .clear ∧
    s.closing = false ∧ (actionsOf .clear s)[s.upc]? = some (.tWrite 0x0C) ∧ asks (.tWrite 0x0C) = 1 ∧ s.answers = [] ∧
    (actionsOf .clear late)[late.upc]? = some (.wait .settle) ∧ waits (.wait .settle) = 1 ∧ late.delays = 0 ∧
    shut.closing = true ∧ shut.closes = 0 ∧ decodeRequest shut.req = .ok .close ∧ shut.upc = 0 ∧
    decodeRequest abort.req = .ok (.init 16 2 0 true) ∧ (Instr.init 16 2 0 true).isInit = true := by decide
/-- Stopped at a write, and at CLOSE's TClose. -/
theorem test_witness_ResumeIsOneRun :
    let s := { ready with answers := [.ok], req := 0x100000000000000000000000 }
    let c := { ready with closes := 0, req := 0x020000000000000000000000 }
    Instr.clear.isRequest = true ∧ decodeRequest s.req = .ok .clear ∧ decodeRequest c.req = .ok .close ∧
      (∃ t, exec .clear s = .next t ∧ t.busy = true ∧ t.upc = 1) ∧ ∃ t, exec .close c = .next t ∧ t.busy = true ∧ t.closing = true :=
  ⟨by decide, by decide, by decide, ⟨_, rfl, by decide, by decide⟩, _, rfl, by decide, by decide⟩
theorem test_witness_InitCompletes :
    (fresh.fsm = .uninitialized ∧ { fresh with fsm := .closed }.fsm = .closed) ∧
    ValidSetup 16 1 0 ∧ ValidSetup 16 1 1 ∧ ValidSetup 20 2 0 ∧ ValidSetup 20 4 0 ∧ Serves 25 16 fresh [] 0 := by
  refine ⟨⟨rfl, rfl⟩, ?_, ?_, ?_, ?_, rfl, rfl⟩ <;> unfold ValidSetup <;> decide
theorem test_witness_InitInvalidArgument :
    fresh.fsm = .uninitialized ∧ (17 : Byte) ≠ 16 ∧ (17 : Byte) ≠ 20 ∧ (3 : Byte) ≠ 1 ∧ (3 : Byte) ≠ 2 ∧ (3 : Byte) ≠ 4 ∧
    (2 : Nibble) ≠ 0 ∧ (2 : Nibble) ≠ 1 ∧ (2 : Byte) ≠ 1 := by decide
theorem test_witness_InitAborts :
    { fresh with answers := [.err false] }.answers = .err false :: [] ∧
    meets (initTrace fresh.params 2 false true) 2 fresh ∧ meets (initTrace fresh.params 2 false true) 38 fresh ∧
    fresh.closes = 0 + 1 ∧ State.reset.closes = 0 :=
  ⟨rfl, test_meets _ 2 fresh 0x3C (by decide), test_meets _ 38 fresh 0x18 (by decide), rfl, rfl⟩
theorem test_witness_InitFromAnyController :
    fresh.fsm = .uninitialized ∧ fresh.params.masksWf = true ∧ fresh.params.stdCommands = true ∧ ValidSetup 20 4 0 ∧
      Serves 25 16 fresh [] 0 :=
  ⟨rfl, by decide, by decide, by unfold ValidSetup; decide, rfl, rfl⟩
theorem test_witness_NotReadyTable : ready.fsm ≠ .uninitialized ∧ ready.fsm ≠ .closed ∧ State.reset.fsm ≠ .ready ∧
    State.reset.fsm ≠ .closed ∧ isReadyOp .blinkToggle = true ∧ { ready with fsm := .closed }.fsm ≠ .ready := by decide
theorem test_witness_CloseCompletes : ready.fsm = .ready ∧ ready.closes = 1 + 1 ∧ { ready with closes := 0 }.closes = 0 ∧
    Word.op 0x020000000000000000000001 = 0x02 ∧
    (0x020000000000000000000001 : Word) ≠ 0x020000000000000000000000 := by decide
theorem test_witness_CloseUninitialized : State.reset.fsm = .uninitialized := by decide
theorem test_witness_DoubleCloseFaults : { ready with fsm := .closed }.fsm = .closed := by decide
theorem test_witness_ClearRule : ready.fsm = .ready ∧ State.reset.fsm ≠ .ready ∧
    meets (sendTrace ready.params true ready.params.cmdClear false ++ [.evWait .clear]) 0 ready ∧
    meets (sendTrace ready.params true ready.params.cmdClear false ++ [.evWait .clear]) 4 ready :=
  ⟨rfl, by decide, test_meets _ 0 ready 0x0C (by decide), test_meets _ 4 ready 0x18 (by decide)⟩
theorem test_witness_HomeRule : ready.fsm = .ready ∧ State.reset.fsm ≠ .ready ∧
    meets (sendTrace ready.params true ready.params.cmdHome false ++ [.evWait .home]) 0 ready ∧
    meets (sendTrace ready.params true ready.params.cmdHome false ++ [.evWait .home]) 4 ready :=
  ⟨rfl, by decide, test_meets _ 0 ready 0x0C (by decide), test_meets _ 4 ready 0x28 (by decide)⟩
/-- The last column and row inside, the first outside. -/
theorem test_witness_SetCursorRule : ready.fsm = .ready ∧ State.reset.fsm ≠ .ready ∧ ready.rows ≤ 4 ∧
    (15 : Byte) < ready.cols ∧ (1 : Byte) < ready.rows ∧ ready.cols ≤ (16 : Byte) ∧ ready.rows ≤ (2 : Byte) ∧
    meets (sendTrace ready.params true (0xC0 + 15) false) 0 ready ∧ meets (sendTrace ready.params true (0xC0 + 15) false) 4 ready :=
  ⟨rfl, by decide, by decide, by decide, by decide, by decide, by decide, test_meets _ 0 ready 0xCC (by decide),
    test_meets _ 4 ready 0xF8 (by decide)⟩
theorem test_witness_WriteRawRule : ready.fsm = .ready ∧ State.reset.fsm ≠ .ready ∧
    meets (sendTrace ready.params true 0x48 true) 0 ready ∧ meets (sendTrace ready.params true 0x48 true) 4 ready :=
  ⟨rfl, by decide, test_meets _ 0 ready 0x4D (by decide), test_meets _ 4 ready 0x89 (by decide)⟩
theorem test_witness_UploadRule :
    let tr := sendTrace ready.params true (0x40 ||| ((0x09 &&& 0x7) <<< 3)) false ++
      ([4, 14, 31, 4, 4, 4, 4, 0] : List Byte).flatMap fun b => sendTrace ready.params true b true
    ready.fsm = .ready ∧ State.reset.fsm ≠ .ready ∧ ([4, 14, 31, 4, 4, 4, 4, 0] : List Byte).length = 8 ∧
      ready.params.masksWf = true ∧ meets tr 0 ready ∧ meets tr 52 ready :=
  ⟨rfl, by decide, rfl, by decide, test_meets _ 0 ready 0x4C (by decide), test_meets _ 52 ready 0x09 (by decide)⟩
/-- `BL_APPLY` at `resend_dc` and at `bare_write` (at `none` there is no write to fail). -/
theorem test_witness_BacklightRules :
    let bare := { ready with params := { Params.default with blApply := .bareWrite } }
    ready.fsm = .ready ∧ meets (backlightTrace ready.params false ready.dc) 0 ready ∧
      meets (backlightTrace ready.params false ready.dc) 4 ready ∧ bare.fsm = .ready ∧
      meets (backlightTrace bare.params true bare.dc) 0 bare :=
  ⟨rfl, test_meets _ 0 ready 0x04 (by decide), test_meets _ 4 ready 0xC0 (by decide), rfl, test_meets _ 0 _ 0x08 (by decide)⟩
theorem test_witness_DisplayRules : ready.fsm = .ready ∧
    meets (sendTrace ready.params ready.bl (dispctlByte ready.params 0b100) false) 4 ready :=
  ⟨rfl, test_meets _ 4 ready 0xC8 (by decide)⟩
theorem test_witness_CursorRules : ready.fsm = .ready ∧
    meets (sendTrace ready.params ready.bl (dispctlByte ready.params 0b110) false) 4 ready :=
  ⟨rfl, test_meets _ 4 ready 0xE8 (by decide)⟩
theorem test_witness_BlinkRules : ready.fsm = .ready ∧
    meets (sendTrace ready.params ready.bl (dispctlByte ready.params 0b101) false) 4 ready :=
  ⟨rfl, test_meets _ 4 ready 0xD8 (by decide)⟩
/-- The second of two toggles ends too, or aborts. -/
theorem test_witness_ToggleRoundTrips : ready.fsm = .ready ∧
    ∃ t u, exec .cursorToggle ready = .next t ∧ t.busy = false ∧ exec .cursorToggle t = .next u ∧ u.busy = false :=
  ⟨rfl, _, _, rfl, by decide, rfl, by decide⟩
theorem test_witness_LifecycleFrame : isReadyOp .backlightOn = true ∧ ∃ t, exec .backlightOn ready = .next t :=
  ⟨by decide, _, rfl⟩
theorem test_witness_SendControlBits : Params.default.masksWf = true ∧
    { Params.default with rsMask := 0x08, enMask := 0x01, blMask := 0x02 }.masksWf = true := by decide
theorem test_witness_LatchesDeliverTheBytes : { Params.default with rsMask := 0x04, enMask := 0x08, blMask := 0x01 }.masksWf = true := by
  decide

/-- The premises about the controller. -/
theorem test_inStep : InStep ready ∧ legalGeometry ready := by
  unfold InStep legalGeometry; decide
theorem test_witness_ClearEmptiesTheScreen : InStep ready ∧ Serves 4 3 ready (List.replicate 36 .ok) 17 :=
  ⟨test_inStep.1, rfl, rfl⟩
theorem test_witness_HomeKeepsTheScreen : InStep ready ∧ Serves 4 3 ready (List.replicate 36 .ok) 17 :=
  ⟨test_inStep.1, rfl, rfl⟩
theorem test_witness_SetCursorPoints : InStep ready ∧ legalGeometry ready ∧ (1 : Byte) < ready.rows ∧ (15 : Byte) < ready.cols ∧
    Serves 4 2 ready (List.replicate 36 .ok) 18 :=
  ⟨test_inStep.1, test_inStep.2, by decide, by decide, rfl, rfl⟩
/-- A controller in step with each entry mode. -/
theorem test_inStep_modes : ∀ increment shift : Bool, InStep { ready with lcd := { ready.lcd with increment, shift } } := by
  unfold InStep; decide
/-- The pointer in DDRAM before the last column of a row (on a screen of 16 columns, column 14), and in CGRAM at a glyph's last
row and before it. -/
theorem test_witness_WriteRawStores : InStep ready ∧ Serves 4 2 ready (List.replicate 36 .ok) 18 ∧ ready.lcd.ptr = .ddram 0 ∧
    ready.lcd.increment = true ∧ ready.lcd.shift = false ∧ legalGeometry ready ∧ (1 : Byte) < ready.rows ∧
    (14 : Byte).toNat + 1 < ready.cols.toNat ∧ ¬ (15 : Byte).toNat + 1 < ready.cols.toNat ∧ screenAddr 1 14 = 0x4E ∧
    (62 : BitVec 6).extractLsb' 0 3 ≠ 7 ∧ (63 : BitVec 6).extractLsb' 0 3 = 7 :=
  ⟨test_inStep.1, ⟨rfl, rfl⟩, rfl, rfl, rfl, test_inStep.2, by decide, by decide, by decide, by decide, by decide, by decide⟩
/-- A location that shows the glyph. -/
theorem test_witness_UploadStoresTheGlyph :
    let s := { ready with lcd := { ready.lcd with ddram := [(0, 0x01)] } }
    InStep ready ∧ ready.lcd.increment = true ∧ ready.lcd.shift = false ∧ ([0, 1, 2, 3, 4, 5, 6, 7] : List Byte).length = 8 ∧
      Serves 36 18 ready (List.replicate 4 .ok) 2 ∧ s.lcd.ddramAt 0 = .code (0x09 &&& 7) :=
  ⟨test_inStep.1, rfl, rfl, rfl, ⟨rfl, rfl⟩, by decide⟩
theorem test_witness_DisplayControlReachesTheController : InStep ready ∧ Serves 4 2 ready (List.replicate 36 .ok) 18 :=
  ⟨test_inStep.1, rfl, rfl⟩
theorem test_witness_BacklightReachesTheBoard :
    let bare := { ready with params := { Params.default with blApply := .bareWrite } }
    let none := { ready with params := { Params.default with blApply := .none } }
    InStep ready ∧ ready.out &&& ready.params.enMask = 0 ∧
    Serves (asksIn (backlightTrace ready.params true ready.dc)) (waitsIn (backlightTrace ready.params true ready.dc)) ready
      (List.replicate 36 .ok) 18 ∧
    InStep bare ∧ Serves (asksIn (backlightTrace bare.params false bare.dc)) (waitsIn (backlightTrace bare.params false bare.dc))
      bare (List.replicate 39 .ok) 20 ∧
    InStep none ∧ Serves (asksIn (backlightTrace none.params false none.dc)) (waitsIn (backlightTrace none.params false none.dc))
      none (List.replicate 40 .ok) 20 :=
  ⟨test_inStep.1, by decide, ⟨rfl, rfl⟩, by unfold InStep; decide, ⟨rfl, rfl⟩, by unfold InStep; decide, rfl, rfl⟩
/-- Up to the last column of a row. -/
theorem test_witness_PrintShowsTheText : InStep ready ∧ legalGeometry ready ∧ (1 : Byte) < ready.rows ∧ (14 : Byte) < ready.cols ∧
    (14 : Byte).toNat + ([0x48, 0x69] : List Byte).length ≤ ready.cols.toNat ∧
    Serves (4 + 4 * 2) (2 + 2 * 2) ready (List.replicate 28 .ok) 14 ∧ ready.lcd.increment = true :=
  ⟨test_inStep.1, test_inStep.2, by decide, by decide, by decide, ⟨rfl, rfl⟩, rfl⟩
theorem test_witness_PrintInvalidWritesNothing : ready.fsm = .ready ∧ ready.cols ≤ (16 : Byte) ∧ ready.rows ≤ (2 : Byte) := by
  decide

/-! The invariants. -/

/-- An idle block in `Ready`, one in flight in a write, one in flight in INIT, CLOSE at its TClose, INIT at that of its abort. -/
theorem test_inv_ready : Inv { ready with inbox := [.request 0x100000000000000000000000] } :=
  ⟨by decide, by decide, fun _ => rfl, by decide, fun _ => rfl, nofun, by decide, fun _ => test_inStep.2, nofun⟩
theorem test_inv_flight : Inv { ready with busy := true, upc := 1, req := 0x100000000000000000000000, answers := [], out := 0x0C } :=
  ⟨by decide, by decide, by decide, by decide, fun _ => rfl, nofun, by decide, fun _ => test_inStep.2,
    fun _ => ⟨.clear, by decide, by decide, nofun, fun _ => by decide⟩⟩
theorem test_inv_init : Inv { State.reset with busy := true, upc := 0, cols := 16, rows := 2, req := 0x011002010000000000000000 } :=
  ⟨by decide, by decide, nofun, by decide, nofun, nofun, nofun, nofun, fun _ =>
    ⟨.init 16 2 0 true, by decide, by decide, fun _ => ⟨rfl, rfl, by unfold legalGeometry; decide, nofun⟩, nofun⟩⟩
theorem test_inv_close : Inv { ready with
    busy := true, req := 0x020000000000000000000000, closes := 0, closing := true, inbox := [.env (.closes 1)] } :=
  ⟨by decide, by decide, by decide, by decide, fun _ => rfl, fun _ => rfl, by decide, fun _ => test_inStep.2,
    fun _ => ⟨.close, by decide, by decide, nofun, fun _ => by decide⟩⟩
theorem test_inv_abort : Inv { ready with
    fsm := .eightBitBoot, busy := true, upc := 3, req := 0x011002010000000000000000, closes := 0, closing := true } :=
  ⟨by decide, by decide, by decide, by decide, fun _ => rfl, fun _ => rfl, by decide, fun _ => test_inStep.2, fun _ =>
    ⟨.init 16 2 0 true, by decide, by decide, fun _ => ⟨rfl, rfl, test_inStep.2, by decide⟩, nofun⟩⟩
/-- A step that runs a request, and one in which the transport completes the TClose of a CLOSE. -/
theorem test_witness_InvKept :
    (let s := { ready with inbox := [.request 0x100000000000000000000000] }
     Inv s ∧ ∃ t, step s = .next t ∧ t.responses = [.ok]) ∧
    let s := { ready with
      busy := true, req := 0x020000000000000000000000, closes := 0, closing := true, inbox := [.env (.closes 1)] }
    Inv s ∧ ∃ t, step s = .next t ∧ t.fsm = .closed :=
  ⟨⟨test_inv_ready, _, rfl, by decide⟩, test_inv_close, _, rfl, by decide⟩
theorem test_witness_EnableQuietKept :
    let s := { ready with inbox := [.request 0x100000000000000000000000] }
    Inv s ∧ EnableQuiet s ∧ ∃ t, step s = .next t ∧ t.responses = [.ok] :=
  ⟨test_inv_ready, fun _ => ⟨fun _ _ => by decide, nofun⟩, _, rfl, by decide⟩
theorem test_witness_OnlyDoubleCloseFaults :
    let s := { ready with fsm := .closed, tOpen := false }.withFetchWord 96 0x020000000000000000000000
    Inv s ∧ step s = .fault .doubleClose :=
  ⟨⟨by decide, by decide, fun _ => rfl, by decide, nofun, nofun, fun _ _ => rfl, nofun, nofun⟩, rfl⟩
theorem test_witness_BlockIgnoresTheController :
    let s := { ready with answers := [.err true], out := 0x00, inbox := [.request 0x100000000000000000000000] }
    let t := { ready with answers := [.err false], lcd := Lcd.reset, inbox := [.request 0x100000000000000000000000] }
    blind s = blind t ∧ s ≠ t := by decide
theorem test_witness_OutputsOnlyGrow : ∃ t, step (ready.withFetchWord 96 0x130000480000000000000000) = .next t ∧
    t.responses = [.ok] := ⟨_, rfl, by decide⟩
theorem test_witness_WritesNeedAnOpenTransport :
    let s := fresh.withFetchWord 96 0x011002010000000000000000
    Inv s ∧ ∃ t, step s = .next t ∧ t.trace = s.trace ++ initTrace s.params 2 false true ∧
      writesOf (initTrace s.params 2 false true) ≠ [] :=
  ⟨⟨by decide, by decide, fun _ => rfl, by decide, nofun, nofun, fun _ _ => rfl, nofun, nofun⟩, _, rfl, by decide, by decide⟩
/-- A host that goes on after an IOError and a NotReady, then closes twice. -/
theorem test_witness_NoDoubleCloseNoFault :
    let is := [Instr.clear, .init 16 2 0 true, .close, .close, .home]
    let s := { ready with answers := [.err false] }
    (∀ i ∈ is, i.wf = true) ∧
    issueEach is s = ([(.clear, .ioError), (.init 16 2 0 true, .notReady), (.close, .ok)], .faulted .doubleClose) :=
  ⟨by decide, rfl⟩
/-- An upload, then a SET_CURSOR, then a WRITE_RAW. -/
theorem test_witness_HostDutyKeepsTheGlyphs :
    let before := [Instr.uploadCustomChar 1 [1, 2, 3, 4, 5, 6, 7, 8], .setCursor 0 0]
    let s := { ready with answers := List.replicate 44 .ok, delays := 22 }
    s.busy = false ∧ s.params.masksWf = true ∧ s.params.stdCommands = true ∧ Synced s ∧ s.out &&& s.params.enMask = 0 ∧
    s.lcd.ptr = .ddram 0 ∧ (∀ i ∈ before, i.wf = true) ∧
    cgramSafe false ((before ++ Instr.writeRaw 0x01 :: []).map fun i => (i, .ok)) = true ∧
    ∃ t, issueAll (before ++ .writeRaw 0x01 :: []) s = .finished .ok t :=
  ⟨by decide, by decide, by decide, ⟨rfl, rfl⟩, by decide, rfl, by decide, by decide, _, rfl⟩
theorem test_witness_StatusPortShows : ready.fsm ∈ [Fsm.eightBitBoot, .fourBitLatched, .configured, .ready] := by decide
theorem test_witness_InitWaits : Params.default.wf = true ∧
    { Params.default with tPowerOn := 30000, tSettle := 40 }.wf = true := by decide

end Sys2Proof.Tests
end

section
/-! PROOFS. Which parameter records are well-formed (00_scope.md R9, R10), rule by rule. -/

namespace Sys2Proof

theorem isControlBit_iff (m : Byte) : isControlBit m = true ↔ m = 0x01 ∨ m = 0x02 ∨ m = 0x04 ∨ m = 0x08 := by
  simp [isControlBit, or_assoc]

theorem extract_high_eq_iff (v : Byte) (n : Nibble) : v.extractLsb' 4 4 = n ↔ v >>> 4 = n.setWidth 8 := by
  revert v n; decide

theorem Params.masksWf_iff (p : Params) : p.masksWf = true ↔
    (∀ m ∈ [p.rsMask, p.enMask, p.blMask], m = 0x01 ∨ m = 0x02 ∨ m = 0x04 ∨ m = 0x08) ∧
    p.rsMask ≠ p.enMask ∧ p.rsMask ≠ p.blMask ∧ p.enMask ≠ p.blMask := by
  simp only [Params.masksWf, Bool.and_eq_true, isControlBit_iff, bne_iff_ne, List.forall_mem_cons, List.not_mem_nil,
    false_imp_iff, implies_true, and_true, and_assoc]

theorem Params.delaysWf_iff (p : Params) : p.delaysWf = true ↔
    30000 ≤ p.tPowerOn ∧ p.tBoot1 = 5000 ∧ p.tBoot2 = 100 ∧ 40 ≤ p.tSettle ∧ 2000 ≤ p.tClear := by
  simp only [Params.delaysWf, Bool.and_eq_true, decide_eq_true_eq, and_assoc]

theorem Params.funcsetWf_iff (p : Params) : p.funcsetWf = true ↔
    (p.cmdFuncset ||| p.fs4bit) >>> 4 = 0x2 ∧ (p.cmdFuncset ||| p.fs8bit) >>> 4 = 0x3 := by
  simp only [Params.funcsetWf, Bool.and_eq_true, beq_iff_eq, extract_high_eq_iff]
  exact Iff.rfl

end Sys2Proof

namespace Sys2Proof.Machine

theorem step_of_not_wf (s : State) (h : s.params.wf = false) : step s = .refused .badParameters := by
  simp [step, h]

/-- Settles O10: `Params.wf` is the conjunction of its three checks, each characterised above, and `step` looks at it first. -/
theorem badParametersAreRefused : Obligations.BadParametersAreRefused := by
  unfold Obligations.BadParametersAreRefused
  refine ⟨fun p => ?_, step_of_not_wf⟩
  simp only [Params.wf, Bool.and_eq_true, Params.masksWf_iff, Params.delaysWf_iff, Params.funcsetWf_iff, and_assoc]

end Sys2Proof.Machine
end

section
/-! PROOFS. Noninterference (00_scope.md R7, 20_memory.md R70): states that are equal once blinded stay so through the block's
turn. What the block reads is equal in both (`eq_of_blind`), an update of the block's own fields keeps the equality
(`blind_update`), and a write, the one action whose effect differs, touches only what `blind` forgets (`blind_drive`). -/

namespace Sys2Proof.Machine

variable {s t : State}

/-- What the block can read is the same in both. -/
theorem eq_of_blind {α : Type} (f : State → α) (h : blind s = blind t)
    (hf : ∀ u, f (blind u) = f u := by exact fun _ => rfl) : f s = f t := by
  rw [← hf s, ← hf t, h]

/-- An update that does not look past what the block can read keeps the equality. -/
theorem blind_update (f : State → State) (h : blind s = blind t)
    (hf : ∀ u, blind (f u) = f (blind u) := by exact fun _ => rfl) : blind (f s) = blind (f t) := by
  rw [hf s, hf t, h]

theorem seen_of_blind (h : blind s = blind t) : s.answers.map Answer.seen = t.answers.map Answer.seen :=
  congrArg State.answers h

/-- A part of an operation that takes states the block cannot tell apart to such states. -/
def KeepsBlind (f : State → State) : Prop := ∀ ⦃s t : State⦄, blind s = blind t → blind (f s) = blind (f t)

/-! Writes. -/

theorem blind_drive (v : Byte) (s : State) : blind (drive v s) = blind s := by
  unfold drive
  split <;> rfl

theorem blind_driveFailed (v : Byte) (reached : Bool) (s : State) : blind (driveFailed v reached s) = blind s := by
  cases reached with
  | false => rfl
  | true => exact blind_drive v s

/-! Executing and running. -/

/-- Lists of answers that look the same to the block have the same shape. -/
theorem seen_cases {l m : List Answer} (h : l.map Answer.seen = m.map Answer.seen) :
    (l = [] ∧ m = []) ∨
    (∃ l' m', l = .ok :: l' ∧ m = .ok :: m' ∧ l'.map Answer.seen = m'.map Answer.seen) ∨
    ∃ r q l' m', l = .err r :: l' ∧ m = .err q :: m' ∧ l'.map Answer.seen = m'.map Answer.seen := by
  cases l with
  | nil => exact .inl ⟨rfl, List.map_eq_nil_iff.1 h.symm⟩
  | cons x l =>
    obtain ⟨y, m, rfl, hxy, hl⟩ := List.map_eq_cons_iff.1 h.symm
    cases x with
    | ok =>
      cases y with
      | ok => exact .inr (.inl ⟨l, m, rfl, rfl, hl.symm⟩)
      | err q => cases hxy
    | err r =>
      cases y with
      | ok => cases hxy
      | err q => exact .inr (.inr ⟨r, q, l, m, rfl, rfl, hl.symm⟩)

theorem blind_withAnswers {l m : List Answer} (h : blind s = blind t) (hl : l.map Answer.seen = m.map Answer.seen) :
    blind { s with answers := l } = blind { t with answers := m } :=
  congrArg₂ (fun u a => { u with answers := a }) h hl

theorem blind_setFsm (f : Fsm) (s : State) : blind (setFsm f s) = setFsm f (blind s) := by
  unfold setFsm
  split <;> rfl

/-- Two ends of an action that the block cannot tell apart. -/
inductive Done.Alike : Done → Done → Prop
  | completed {s t : State} (h : blind s = blind t) : Done.Alike (.completed s) (.completed t)
  | failed {s t : State} (h : blind s = blind t) : Done.Alike (.failed s) (.failed t)
  | waiting {s t : State} (h : blind s = blind t) : Done.Alike (.waiting s) (.waiting t)

theorem execAction_alike (a : Action) (h : blind s = blind t) : (execAction a s).Alike (execAction a t) := by
  have hans : s.answers.map Answer.seen = t.answers.map Answer.seen := seen_of_blind h
  have hcloses : s.closes = t.closes := eq_of_blind (·.closes) h
  have hdelays : s.delays = t.delays := eq_of_blind (·.delays) h
  cases a with
  | tOpen =>
    obtain ⟨hs, ht⟩ | ⟨l, m, hs, ht, hl⟩ | ⟨r, q, l, m, hs, ht, hl⟩ := seen_cases hans <;> simp only [execAction, hs, ht]
    · exact .waiting h
    · exact .completed
        (blind_update (fun u => { u with trace := u.trace ++ [Event.evOpen .ok], tOpen := true }) (blind_withAnswers h hl))
    · exact .failed (blind_update (fun u => { u with trace := u.trace ++ [Event.evOpen .err] }) (blind_withAnswers h hl))
  | tWrite v =>
    obtain ⟨hs, ht⟩ | ⟨l, m, hs, ht, hl⟩ | ⟨r, q, l, m, hs, ht, hl⟩ := seen_cases hans <;> simp only [execAction, hs, ht]
    · exact .waiting h
    · refine .completed ?_
      rw [blind_drive, blind_drive]
      exact blind_update (fun u => { u with trace := u.trace ++ [Event.evWrite v .ok] }) (blind_withAnswers h hl)
    · refine .failed ?_
      rw [blind_driveFailed, blind_driveFailed]
      exact blind_update (fun u => { u with trace := u.trace ++ [Event.evWrite v .err] }) (blind_withAnswers h hl)
  | tClose =>
    simp only [execAction, hcloses]
    cases t.closes with
    | zero => exact .waiting (blind_update (fun u => { u with closes := 0, closing := true }) h)
    | succ n => exact .completed (blind_update (finishClose n) h)
  | wait x =>
    simp only [execAction, hdelays]
    cases t.delays with
    | zero => exact .waiting h
    | succ n => exact .completed (blind_update (fun u => { u with delays := n, trace := u.trace ++ [Event.evWait x] }) h)
  | setFsm f => exact .completed (blind_update (setFsm f) h (blind_setFsm f))

theorem run_keepsBlind {ab : State → State} (hab : KeepsBlind ab) (l : List Action) : KeepsBlind (run ab l) := by
  induction l with
  | nil => exact fun s t h => blind_update (respond .ok) h
  | cons a l ih =>
    intro s t h
    have hdone := execAction_alike a h
    simp only [run]
    generalize execAction a s = d, execAction a t = e at hdone ⊢
    cases hdone with
    | completed h => exact ih (blind_update (fun u => { u with upc := u.upc + 1 }) h)
    | failed h => exact hab h
    | waiting h => exact h

/-- Running a list built from the state itself, when building it reads only what the block can. -/
theorem run_own_keepsBlind {ab : State → State} (hab : KeepsBlind ab) {l : State → List Action}
    (hl : ∀ s, l (blind s) = l s) : KeepsBlind fun s => run ab (l s) s := by
  intro s t h
  simp only [eq_of_blind l h hl]
  exact run_keepsBlind hab _ h

theorem abortReady_keepsBlind : KeepsBlind abortReady := fun _ _ h => blind_update abortReady h

theorem closeInit_keepsBlind : KeepsBlind closeInit := by
  intro s t h
  have hcloses : s.closes = t.closes := eq_of_blind (·.closes) h
  simp only [closeInit, hcloses]
  cases t.closes with
  | zero => exact blind_update (fun u => { u with closes := 0, closing := true }) h
  | succ n => exact blind_update (fun u => failInit (finishClose n u)) h

theorem abortInit_keepsBlind : KeepsBlind abortInit := by
  intro s t h
  have hupc : s.upc = t.upc := eq_of_blind (·.upc) h
  simp only [abortInit, hupc]
  split
  · exact blind_update failInit h
  · exact closeInit_keepsBlind h

theorem abortOf_keepsBlind (i : Instr) : KeepsBlind (abortOf i) := by
  unfold abortOf
  split
  · exact abortInit_keepsBlind
  · exact abortReady_keepsBlind

/-! Operations. -/

theorem inReady_keepsBlind {body : State → State} (hb : KeepsBlind body) : KeepsBlind (inReady body) := by
  intro s t h
  have hfsm : s.fsm = t.fsm := eq_of_blind (·.fsm) h
  simp only [inReady, hfsm]
  split
  · exact hb (blind_update start h)
  · exact blind_update (respond .notReady) h

/-- An operation of `Ready` without a state write. -/
theorem readyRun_keepsBlind {l : State → List Action} (hl : ∀ s, l (blind s) = l s) :
    KeepsBlind (inReady fun s => run abortReady (l s) s) :=
  inReady_keepsBlind (run_own_keepsBlind abortReady_keepsBlind hl)

theorem backlightTo_keepsBlind {bl : State → Bool} (hbl : ∀ s, bl (blind s) = bl s) : KeepsBlind (backlightTo bl) := by
  refine inReady_keepsBlind fun s t h => ?_
  simp only [eq_of_blind bl h hbl]
  exact run_own_keepsBlind abortReady_keepsBlind (l := blApplyActions) (fun _ => rfl)
    (blind_update (fun u => { u with bl := bl t }) h)

theorem dcTo_keepsBlind {dc : State → BitVec 3} (hdc : ∀ s, dc (blind s) = dc s) : KeepsBlind (dcTo dc) := by
  refine inReady_keepsBlind fun s t h => ?_
  simp only [eq_of_blind dc h hdc]
  exact run_own_keepsBlind abortReady_keepsBlind (l := dispctlActions) (fun _ => rfl)
    (blind_update (fun u => { u with dc := dc t }) h)

theorem execSetCursor_alike (row col : Byte) (h : blind s = blind t) :
    sameToBlock (execSetCursor row col s) (execSetCursor row col t) := by
  refine inReady_keepsBlind (fun s t h => ?_) h
  have hcols : s.cols = t.cols := eq_of_blind (·.cols) h
  have hrows : s.rows = t.rows := eq_of_blind (·.rows) h
  simp only [hcols, hrows]
  split
  · exact run_own_keepsBlind abortReady_keepsBlind (l := setCursorActions row col) (fun _ => rfl) h
  · exact blind_update (respond .invalidArgument) h

theorem execClose_alike (h : blind s = blind t) : sameToBlock (execClose s) (execClose t) := by
  have hfsm : s.fsm = t.fsm := eq_of_blind (·.fsm) h
  simp only [execClose, hfsm]
  split
  · rfl
  · exact readyRun_keepsBlind (l := closeActions) (fun _ => rfl) h

theorem execInit_alike (cols rows : Byte) (font : Nibble) (bl0 : Bool) (h : blind s = blind t) :
    sameToBlock (execInit cols rows font bl0 s) (execInit cols rows font bl0 t) := by
  have hfsm : s.fsm = t.fsm := eq_of_blind (·.fsm) h
  simp only [execInit, hfsm]
  split
  · split
    · exact run_own_keepsBlind abortInit_keepsBlind (l := initActions) (fun _ => rfl)
        (blind_update (fun u => initWrites cols rows font bl0 (start u)) h)
    · exact blind_update (respond .invalidArgument) h
  · exact blind_update (respond .notReady) h

theorem exec_alike (i : Instr) (h : blind s = blind t) : sameToBlock (exec i s) (exec i t) := by
  cases i
  case init cols rows font bl0 => exact execInit_alike cols rows font bl0 h
  case close => exact execClose_alike h
  case clear => exact readyRun_keepsBlind (l := clearActions) (fun _ => rfl) h
  case home => exact readyRun_keepsBlind (l := homeActions) (fun _ => rfl) h
  case setCursor row col => exact execSetCursor_alike row col h
  case writeRaw code => exact readyRun_keepsBlind (l := writeRawActions code) (fun _ => rfl) h
  case uploadCustomChar loc pattern => exact readyRun_keepsBlind (l := uploadActions loc pattern) (fun _ => rfl) h
  case backlightOn | backlightOff | backlightToggle => exact backlightTo_keepsBlind (fun _ => rfl) h
  case displayOn | displayOff | displayToggle | cursorOn | cursorOff | cursorToggle | blinkOn | blinkOff | blinkToggle =>
    exact dcTo_keepsBlind (fun _ => rfl) h
  -- A command byte of the controller acts on `lcd` alone, which `blind` forgets.
  all_goals exact h

theorem actionsOf_blind (i : Instr) (s : State) : actionsOf i (blind s) = actionsOf i s :=
  actionsOf_congr i s (blind s) rfl rfl rfl rfl rfl

theorem resume_alike (h : blind s = blind t) : sameToBlock (resume s) (resume t) := by
  have hreq : s.req = t.req := eq_of_blind (·.req) h
  have hclosing : s.closing = t.closing := eq_of_blind (·.closing) h
  simp only [resume, hreq, hclosing]
  cases decodeRequest t.req with
  | error e => rfl
  | ok i =>
    dsimp only
    split
    · exact closeInit_keepsBlind h
    · exact run_own_keepsBlind (abortOf_keepsBlind i) (l := fun s => (actionsOf i s).drop s.upc)
        (fun s => by rw [actionsOf_blind]; rfl) h

/-! Hardware reset. -/

/-- What hardware reset makes of a state once the write already issued has landed or not. -/
def resetBlock (s : State) : State :=
  dropMirror { s with
    fsm := .uninitialized
    busy := false
    upc := 0
    ioFault := false
    tOpen := false
    closing := false
    req := Config.freeWord s.draws }

theorem hardReset_eq_resetBlock (landed : Bool) (s : State) : ∃ u, blind u = blind s ∧ hardReset landed s = resetBlock u := by
  unfold hardReset
  cases pendingWrite s with
  | none => exact ⟨s, rfl, rfl⟩
  | some v =>
    cases landed with
    | false => exact ⟨s, rfl, rfl⟩
    | true => exact ⟨drive v s, blind_drive v s, rfl⟩

theorem hardReset_keepsBlind (landed : Bool) : KeepsBlind (hardReset landed) := by
  intro s t h
  obtain ⟨u, hu, hs⟩ := hardReset_eq_resetBlock landed s
  obtain ⟨w, hw, ht⟩ := hardReset_eq_resetBlock landed t
  rw [hs, ht]
  exact blind_update resetBlock (hu.trans (h.trans hw.symm))

/-! The block's turn. -/

theorem accept_alike (w : Word) (h : blind s = blind t) : sameToBlock (accept w s) (accept w t) := by
  have hlatched := blind_update (fun u => { u with req := w, busy := true }) h
  unfold accept
  cases decodeRequest w with
  | ok i => exact exec_alike i hlatched
  | error e => exact blind_update (respond .illegalRequest) hlatched

/-- An operation in flight goes on, an idle block stands. -/
theorem goOn_alike (h : blind s = blind t) :
    sameToBlock (if s.busy then resume s else .next s) (if t.busy then resume t else .next t) := by
  have hbusy : s.busy = t.busy := eq_of_blind (·.busy) h
  rw [hbusy]
  split
  · exact resume_alike h
  · exact h

theorem envTurn_alike (e : EnvInput) (h : blind s = blind t) : sameToBlock (envTurn e s) (envTurn e t) := by
  cases e with
  | reset landed => exact hardReset_keepsBlind landed h
  | answers more =>
    have hans : s.answers.map Answer.seen = t.answers.map Answer.seen := seen_of_blind h
    have hmore : (s.answers ++ more).map Answer.seen = (t.answers ++ more).map Answer.seen := by
      rw [List.map_append, List.map_append, hans]
    exact goOn_alike (blind_withAnswers h hmore)
  | delays n => exact goOn_alike (blind_update (fun u => { u with delays := u.delays + n }) h)
  | closes n => exact goOn_alike (blind_update (fun u => { u with closes := u.closes + n }) h)

theorem blockTurn_alike (h : blind s = blind t) : sameToBlock (blockTurn s) (blockTurn t) := by
  have hbusy : s.busy = t.busy := eq_of_blind (·.busy) h
  have hinbox : s.inbox = t.inbox := eq_of_blind (·.inbox) h
  have hrest : ∀ l, blind { s with inbox := l } = blind { t with inbox := l } := fun l =>
    blind_update (fun u => { u with inbox := l }) h
  unfold blockTurn
  by_cases hb : t.busy = true
  · rw [if_pos hb, if_pos (hbusy.trans hb), hinbox]
    cases takeEnv t.inbox with
    | none => exact resume_alike h
    | some r => exact envTurn_alike r.1 (hrest r.2)
  · rw [if_neg hb, if_neg (hbusy ▸ hb), hinbox]
    rcases t.inbox with _ | ⟨w | e, l⟩
    · exact h
    · exact accept_alike w (hrest l)
    · exact envTurn_alike e (hrest l)

/-- Settles O54: every part of the block's turn keeps the equality of the blinded states. -/
theorem blockIgnoresTheController : Obligations.BlockIgnoresTheController := by
  unfold Obligations.BlockIgnoresTheController
  exact fun _ _ => blockTurn_alike

end Sys2Proof.Machine
end

section
/-! PROOFS. What one step can do, said once (`step_turn`): the controller's turn, hardware reset, a request turned away, an
operation begun, and one gone on with. The invariants of 10_state.md are case analyses over it. -/

namespace Sys2Proof.Machine

/-! Instructions of either kind. -/

theorem ifReserved_eq_ok {zero : Bool} {i j : Instr} (h : ifReserved zero j = .ok i) : j = i := by
  cases zero with
  | false => cases h
  | true => exact Except.ok.inj h

/-- A request word decodes to an operation of the block (30_encoding.md R105). -/
theorem isRequest_of_decodeRequest {w : Word} {i : Instr} (h : decodeRequest w = .ok i) : i.isRequest = true := by
  unfold decodeRequest at h
  split at h
  case h_20 => cases h
  all_goals exact ifReserved_eq_ok h ▸ rfl

/-- A command byte decodes to a command of the controller (30_encoding.md R120). -/
theorem not_isRequest_of_decodeCommand {b : Byte} {i : Instr} (h : decodeCommand b = .ok i) : i.isRequest = false := by
  have hall : ∀ b, (decodeCommand b).toOption.all (fun i => !i.isRequest) = true := by decide
  simpa [h, Except.toOption] using hall b

theorem request_cases {i : Instr} (h : i.isRequest = true) : i.isInit = true ∨ i = .close ∨ isReadyOp i = true := by
  cases i
  case init => exact .inl rfl
  case close => exact .inr (.inl rfl)
  case lcdClear | lcdHome | lcdEntryMode | lcdDisplayControl | lcdShift | lcdFunctionSet | lcdSetCgramAddr |
      lcdSetDdramAddr => cases h
  all_goals exact .inr (.inr rfl)

theorem not_isInit_of_isReadyOp {i : Instr} (h : isReadyOp i = true) : i.isInit = false := by
  simp only [isReadyOp, Bool.and_eq_true, Bool.not_eq_true'] at h
  exact h.1.2

theorem ne_close_of_isReadyOp {i : Instr} (h : isReadyOp i = true) : i ≠ .close := by
  rintro rfl
  cases h

theorem exec_command {i : Instr} (s : State) (h : i.isRequest = false) :
    exec i s = .next { s with lcd := s.lcd.command i } := by
  cases i
  case lcdClear | lcdHome | lcdEntryMode | lcdDisplayControl | lcdShift | lcdFunctionSet | lcdSetCgramAddr |
      lcdSetDdramAddr => rfl
  all_goals cases h

theorem controllerTurn_eq (rs : Bool) (b : Byte) (s : State) :
    controllerTurn rs b s = .next { s with lcd := Lcd.byte s.screen rs b { s.lcd with ir := none } } := by
  cases rs with
  | true => rfl
  | false =>
    simp only [controllerTurn, Lcd.byte, Bool.false_eq_true, if_false]
    cases h : decodeCommand b with
    | ok i => exact exec_command _ (not_isRequest_of_decodeCommand h)
    | error e => rfl

/-! A request accepted. -/

/-- The lifecycle states in which an operation runs (40_lifecycle_init.md R150, R151; 60_exceptions.md R305). -/
def Admits (i : Instr) (f : Fsm) : Prop :=
  match i with
  | .init cols rows font _ => (f = .uninitialized ∨ f = .closed) ∧ initValid cols rows font = true
  | _ => f = .ready

/-- The state an operation runs its list from: its state writes are done (41_framing.md R190). -/
def begun (i : Instr) (s : State) : State :=
  match i with
  | .init cols rows font bl0 => initWrites cols rows font bl0 (start s)
  | _ => opStart i s

/-- The operation goes on from the action at `upc`. -/
def goOn (i : Instr) (s : State) : State := run (abortOf i) ((actionsOf i s).drop s.upc) s

theorem begun_eq_opStart {i : Instr} (h : i.isInit = false) (s : State) : begun i s = opStart i s := by
  cases i
  case init => cases h
  all_goals rfl

theorem admits_iff_ready {i : Instr} (h : i.isInit = false) (f : Fsm) : Admits i f ↔ f = .ready := by
  cases i
  case init => cases h
  all_goals exact Iff.rfl

theorem abortOf_init {i : Instr} (h : i.isInit = true) : abortOf i = abortInit := by simp [abortOf, h]

theorem abortOf_ready {i : Instr} (h : i.isInit = false) : abortOf i = abortReady := by simp [abortOf, h]

theorem exec_notReady {i : Instr} {s : State} (hi : isReadyOp i = true) (hf : s.fsm ≠ .ready) :
    exec i s = .next (respond .notReady s) := by
  have hin : ∀ body, inReady body s = respond .notReady s := fun body => if_neg hf
  cases i
  case init | close | lcdClear | lcdHome | lcdEntryMode | lcdDisplayControl | lcdShift | lcdFunctionSet | lcdSetCgramAddr |
      lcdSetDdramAddr => cases hi
  all_goals exact congrArg Host.Outcome.next (hin _)

/-- An operation of `Ready` is turned away, or runs its list. -/
theorem exec_readyOp {i : Instr} {s t : State} (hi : isReadyOp i = true) (h : exec i s = .next t) :
    (∃ r, t = respond r s) ∨ s.fsm = .ready ∧ t = goOn i (opStart i s) := by
  by_cases hf : s.fsm = .ready
  · by_cases hv : ∀ row col, i = .setCursor row col → cursorValid s.cols s.rows row col = true
    · rw [exec_ready i s hi hf hv] at h
      cases h
      exact .inr ⟨hf, by rw [goOn, abortOf_ready (not_isInit_of_isReadyOp hi)]; rfl⟩
    · simp only [not_forall] at hv
      obtain ⟨row, col, rfl, hv⟩ := hv
      simp only [exec, execSetCursor, inReady, if_pos hf] at h
      rw [if_neg (by exact hv)] at h
      cases h
      exact .inl ⟨.invalidArgument, rfl⟩
  · rw [exec_notReady hi hf] at h
    cases h
    exact .inl ⟨.notReady, rfl⟩

/-- A request is turned away, or runs its list. -/
theorem exec_request {i : Instr} {s t : State} (hi : i.isRequest = true) (h : exec i s = .next t) :
    (∃ r, t = respond r s) ∨ Admits i s.fsm ∧ t = goOn i (begun i s) := by
  obtain hinit | rfl | hop := request_cases hi
  · cases i
    case init cols rows font bl0 =>
      simp only [exec, execInit] at h
      split at h
      · next hf =>
        split at h
        · next hv =>
          cases h
          exact .inr ⟨⟨hf, hv⟩, rfl⟩
        · cases h
          exact .inl ⟨_, rfl⟩
      · cases h
        exact .inl ⟨_, rfl⟩
    all_goals cases hinit
  · simp only [exec, execClose, inReady] at h
    split at h
    · cases h
    · cases h
      split
      · next hf => exact .inr ⟨hf, rfl⟩
      · exact .inl ⟨_, rfl⟩
  · have hni := not_isInit_of_isReadyOp hop
    simpa only [begun_eq_opStart hni, admits_iff_ready hni] using exec_readyOp hop h

/-! One step. -/

/-- `s` as the environment's inputs leave it: the offers, the answers and the completions to come. -/
def State.supplied (inbox : List Input) (answers : List Answer) (delays closes : Nat) (s : State) : State :=
  { s with inbox := inbox, answers := answers, delays := delays, closes := closes }

/-- What a step does once the environment has supplied what it does. -/
inductive Turn (s : State) : State → Prop
  /-- The controller executes the byte it has latched. -/
  | controller (rs : Bool) (b : Byte) : Turn s { s with lcd := Lcd.byte s.screen rs b { s.lcd with ir := none } }
  /-- Hardware reset. -/
  | reset (landed : Bool) : Turn s (hardReset landed s)
  /-- An idle block stands. -/
  | stands (idle : s.busy = false) : Turn s s
  /-- A request is answered without any other effect. -/
  | turnedAway (idle : s.busy = false) (r : Response) : Turn s (respond r s)
  /-- An operation begins. -/
  | begins (idle : s.busy = false) (w : Word) (i : Instr) (hw : decodeRequest w = .ok i) (ha : Admits i s.fsm) :
      Turn s (goOn i (begun i { s with req := w, busy := true }))
  /-- The operation in flight goes on. -/
  | goesOn (busy : s.busy = true) (i : Instr) (hw : decodeRequest s.req = .ok i) (hc : (i.isInit && s.closing) = false) :
      Turn s (goOn i s)
  /-- INIT's abort goes on at its TClose. -/
  | closes (busy : s.busy = true) (i : Instr) (hw : decodeRequest s.req = .ok i) (hi : i.isInit = true)
      (hc : s.closing = true) : Turn s (closeInit s)

theorem accept_turn {w : Word} {s t : State} (idle : s.busy = false) (h : accept w s = .next t) : Turn s t := by
  unfold accept at h
  cases hw : decodeRequest w with
  | error e =>
    rw [hw] at h
    cases h
    exact .turnedAway idle .illegalRequest
  | ok i =>
    rw [hw] at h
    obtain ⟨r, rfl⟩ | ⟨ha, rfl⟩ := exec_request (isRequest_of_decodeRequest hw) h
    · exact .turnedAway idle r
    · exact .begins idle w i hw ha

theorem resume_turn {s t : State} (busy : s.busy = true) (h : resume s = .next t) : Turn s t := by
  unfold resume at h
  cases hw : decodeRequest s.req with
  | error e => rw [hw] at h; cases h
  | ok i =>
    rw [hw] at h
    dsimp only at h
    cases hc : i.isInit && s.closing with
    | true =>
      rw [hc] at h
      cases h
      obtain ⟨hi, hc⟩ := Bool.and_eq_true_iff.1 hc
      exact .closes busy i hw hi hc
    | false =>
      rw [hc] at h
      cases h
      exact .goesOn busy i hw hc

theorem resumeOrStand_turn {s t : State} (h : (if s.busy then resume s else .next s) = .next t) : Turn s t := by
  split at h
  · next hb => exact resume_turn hb h
  · next hb =>
    cases h
    exact .stands (Bool.eq_false_iff.2 hb)

theorem envTurn_turn {e : EnvInput} {s t : State} (h : envTurn e s = .next t) :
    ∃ a d c, Turn (s.supplied s.inbox a d c) t := by
  cases e with
  | reset landed =>
    cases h
    exact ⟨s.answers, s.delays, s.closes, .reset landed⟩
  | answers more => exact ⟨s.answers ++ more, s.delays, s.closes, resumeOrStand_turn h⟩
  | delays n => exact ⟨s.answers, s.delays + n, s.closes, resumeOrStand_turn h⟩
  | closes n => exact ⟨s.answers, s.delays, s.closes + n, resumeOrStand_turn h⟩

theorem blockTurn_turn {s t : State} (h : blockTurn s = .next t) : ∃ l a d c, Turn (s.supplied l a d c) t := by
  unfold blockTurn at h
  split at h
  · next hb =>
    cases he : takeEnv s.inbox with
    | none =>
      rw [he] at h
      exact ⟨s.inbox, s.answers, s.delays, s.closes, resume_turn hb h⟩
    | some r =>
      rw [he] at h
      exact ⟨r.2, envTurn_turn h⟩
  · next hb =>
    have idle : s.busy = false := Bool.eq_false_iff.2 hb
    split at h
    · next w l _ => exact ⟨l, s.answers, s.delays, s.closes, accept_turn idle h⟩
    · next e l _ => exact ⟨l, envTurn_turn h⟩
    · cases h
      exact ⟨s.inbox, s.answers, s.delays, s.closes, .stands idle⟩

/-- Everything a step can do; its parameters are well-formed. -/
theorem step_turn {s t : State} (h : step s = .next t) :
    s.params.wf = true ∧ ∃ l a d c, Turn (s.supplied l a d c) t := by
  unfold step at h
  split at h
  · next hp =>
    refine ⟨hp, ?_⟩
    cases hir : s.lcd.ir with
    | none =>
      rw [hir] at h
      exact blockTurn_turn h
    | some x =>
      rw [hir] at h
      have h' := (controllerTurn_eq x.1 x.2 s).symm.trans h
      cases h'
      exact ⟨s.inbox, s.answers, s.delays, s.closes, .controller x.1 x.2⟩
  · cases h

end Sys2Proof.Machine
end

section
/-! PROOFS. The trace and the responses only grow (10_state.md R46): each action adds its event (`execAction_adds`), and each
way an operation can end gives one response at most (`run_grows`). -/

namespace Sys2Proof.Machine

/-- From `s` to `t` the trace grows, the parameters stay, and no response is given. -/
def Adds (s t : State) : Prop := t.params = s.params ∧ (∃ tr, t.trace = s.trace ++ tr) ∧ t.responses = s.responses

/-- From `s` to `t` the trace grows, the parameters stay, and a response, if one is given, frees the block. -/
def Grows (s t : State) : Prop :=
  t.params = s.params ∧ (∃ tr, t.trace = s.trace ++ tr) ∧
    (t.responses = s.responses ∨ ∃ r, t.responses = s.responses ++ [r] ∧ t.busy = false)

theorem adds_of_same {s t : State} (hp : t.params = s.params) (ht : t.trace = s.trace) (hr : t.responses = s.responses) :
    Adds s t := ⟨hp, ⟨[], by simp [ht]⟩, hr⟩

theorem Adds.grows {s t : State} (h : Adds s t) : Grows s t := ⟨h.1, h.2.1, .inl h.2.2⟩

theorem Adds.trans_grows {s t u : State} (h : Adds s t) (h' : Grows t u) : Grows s u := by
  obtain ⟨hp, ⟨tr, ht⟩, hr⟩ := h
  obtain ⟨hp', ⟨tr', ht'⟩, hr'⟩ := h'
  exact ⟨hp'.trans hp, ⟨tr ++ tr', by rw [ht', ht, List.append_assoc]⟩, by rwa [hr] at hr'⟩

theorem respond_grows (r : Response) (s : State) : Grows s (respond r s) := ⟨rfl, ⟨[], by simp⟩, .inr ⟨r, rfl, rfl⟩⟩

/-- The state an action ends in. -/
def Done.state : Done → State
  | .completed s | .failed s | .waiting s => s

theorem execAction_adds (a : Action) (s : State) : Adds s (execAction a s).state := by
  cases a with
  | tOpen =>
    simp only [execAction]
    split
    · exact adds_of_same rfl rfl rfl
    · exact ⟨rfl, ⟨_, rfl⟩, rfl⟩
    · exact ⟨rfl, ⟨_, rfl⟩, rfl⟩
  | tWrite v =>
    simp only [execAction]
    split
    · exact adds_of_same rfl rfl rfl
    · exact ⟨drive_params _ _, ⟨_, drive_trace _ _⟩, drive_responses _ _⟩
    · exact ⟨driveFailed_params _ _ _, ⟨_, driveFailed_trace _ _ _⟩, driveFailed_responses _ _ _⟩
  | tClose =>
    simp only [execAction]
    split
    · exact adds_of_same rfl rfl rfl
    · exact ⟨rfl, ⟨_, rfl⟩, rfl⟩
  | wait t =>
    simp only [execAction]
    split
    · exact adds_of_same rfl rfl rfl
    · exact ⟨rfl, ⟨_, rfl⟩, rfl⟩
  | setFsm f => exact adds_of_same (setFsm_params f s) (setFsm_trace f s) (setFsm_responses f s)

theorem run_grows {ab : State → State} (hab : ∀ s, Grows s (ab s)) (l : List Action) (s : State) : Grows s (run ab l s) := by
  induction l generalizing s with
  | nil => exact respond_grows .ok s
  | cons a l ih =>
    have ha := execAction_adds a s
    unfold run
    cases h : execAction a s <;> rw [h] at ha
    case completed u => exact ha.trans_grows (ih { u with upc := u.upc + 1 })
    case failed u => exact ha.trans_grows (hab u)
    case waiting u => exact ha.grows

theorem closeInit_grows (s : State) : Grows s (closeInit s) := by
  unfold closeInit
  split
  · exact (adds_of_same rfl rfl rfl).grows
  · exact ⟨rfl, ⟨[.evClose], rfl⟩, .inr ⟨.ioError, rfl, rfl⟩⟩

theorem abortOf_grows (i : Instr) (s : State) : Grows s (abortOf i s) := by
  cases hi : i.isInit with
  | true =>
    simp only [abortOf_init hi, abortInit]
    split
    · exact ⟨rfl, ⟨[], by simp⟩, .inr ⟨.ioError, rfl, rfl⟩⟩
    · exact closeInit_grows s
  | false =>
    rw [abortOf_ready hi]
    exact ⟨rfl, ⟨[], by simp⟩, .inr ⟨.ioError, rfl, rfl⟩⟩

theorem goOn_grows (i : Instr) (s : State) : Grows s (goOn i s) := run_grows (abortOf_grows i) _ s

theorem begun_adds (i : Instr) (s : State) : Adds s (begun i s) := by
  unfold begun
  split <;> exact adds_of_same rfl rfl rfl

theorem hardReset_same (landed : Bool) (s : State) : (hardReset landed s).params = s.params ∧
    (hardReset landed s).trace = s.trace ∧ (hardReset landed s).responses = s.responses := by
  obtain ⟨u, hu, hreset⟩ := hardReset_eq_resetBlock landed s
  rw [hreset]
  exact ⟨eq_of_blind (s := u) (·.params) hu, eq_of_blind (s := u) (·.trace) hu,
    eq_of_blind (s := u) (·.responses) hu⟩

theorem Turn.grows {s t : State} (h : Turn s t) : Grows s t := by
  cases h with
  | controller rs b => exact (adds_of_same rfl rfl rfl).grows
  | reset landed =>
    obtain ⟨hp, ht, hr⟩ := hardReset_same landed s
    exact (adds_of_same hp ht hr).grows
  | stands _ => exact (adds_of_same rfl rfl rfl).grows
  | turnedAway _ r => exact respond_grows r s
  | begins _ w i _ _ => exact Adds.trans_grows (begun_adds i { s with req := w, busy := true }) (goOn_grows i _)
  | goesOn _ i _ _ => exact goOn_grows i s
  | closes _ i _ _ _ => exact closeInit_grows s

/-- Settles O55: every turn grows the outputs. -/
theorem outputsOnlyGrow : Obligations.OutputsOnlyGrow := by
  unfold Obligations.OutputsOnlyGrow
  intro s t h
  obtain ⟨-, l, a, d, c, hturn⟩ := step_turn h
  exact hturn.grows

end Sys2Proof.Machine
end

section
/-! PROOFS. Running the rest of an operation's list from the action at `upc` (41_framing.md R190 to R192), and what the 17
operations of `Ready` leave alone in every outcome. -/

namespace Sys2Proof.Machine

/-- The actions of `L` from `s.upc` up to `t.upc` have completed between `s` and `t`. -/
def RanTo (L : List Action) (s t : State) : Prop :=
  ∃ pre, L.take t.upc = L.take s.upc ++ pre ∧ Ran pre s t

/-- `u` is `t` after a request of the transport that was answered `err`. -/
inductive Fails (t : State) : State → Prop
  | write (v : Byte) (reached : Bool) (rest : List Answer) :
      Fails t (driveFailed v reached { t with answers := rest, trace := t.trace ++ [.evWrite v .err] })
  | tOpen (rest : List Answer) : Fails t { t with answers := rest, trace := t.trace ++ [.evOpen .err] }

/-- A failed request leaves the block's own fields. -/
theorem Fails.eq {t u : State} (h : Fails t u) :
    u = { t with answers := u.answers, trace := u.trace, out := u.out, lcd := u.lcd } := by
  cases h with
  | write v reached rest =>
    cases reached with
    | false => rfl
    | true =>
      simp only [driveFailed, if_true, drive]
      split <;> rfl
  | tOpen rest => rfl

theorem ranTo_of_drop {L pre post : List Action} {s t : State} (hL : L.drop s.upc = pre ++ post) (h : Ran pre s t) :
    RanTo L s t := by
  refine ⟨pre, ?_, h⟩
  rw [h.upc, List.take_add, hL, List.take_left]

theorem upc_lt_of_drop {L pre post : List Action} {a : Action} {s t : State} (hL : L.drop s.upc = pre ++ a :: post)
    (h : Ran pre s t) : t.upc < L.length := by
  have hlen := congrArg List.length hL
  simp only [List.length_drop, List.length_append, List.length_cons] at hlen
  have := h.upc
  omega

/-- EVERYTHING THE REST OF A LIST CAN DO, for a list that does not end the handle: it completes, it stands at an action, or a
request of it fails. -/
theorem run_rest (ab : State → State) {L : List Action} {s : State} (hs : L.all Action.inSession = true)
    (hk : s.upc ≤ L.length) :
    (∃ t, run ab (L.drop s.upc) s = respond .ok t ∧ RanTo L s t ∧ t.upc = L.length) ∨
    (RanTo L s (run ab (L.drop s.upc) s) ∧ (run ab (L.drop s.upc) s).upc < L.length) ∨
    ∃ t u, run ab (L.drop s.upc) s = ab u ∧ Fails t u ∧ RanTo L s t ∧ t.upc < L.length := by
  have hs' : (L.drop s.upc).all Action.inSession = true :=
    List.all_eq_true.2 fun a ha => List.all_eq_true.1 hs a (List.mem_of_mem_drop ha)
  obtain ⟨t, hr, h⟩ | ⟨pre, a, post, hL, h, -⟩ | ⟨pre, v, post, t, r, rest, hL, h, hr⟩ |
      ⟨pre, post, t, rest, hL, h, hr⟩ := run_cases ab (L.drop s.upc) s hs'
  · refine .inl ⟨t, hr, ranTo_of_drop (List.append_nil _).symm h, ?_⟩
    rw [h.upc, List.length_drop]
    omega
  · exact .inr (.inl ⟨ranTo_of_drop hL h, upc_lt_of_drop hL h⟩)
  · exact .inr (.inr ⟨t, _, hr, .write v r rest, ranTo_of_drop hL h, upc_lt_of_drop hL h⟩)
  · exact .inr (.inr ⟨t, _, hr, .tOpen rest, ranTo_of_drop hL h, upc_lt_of_drop hL h⟩)

theorem fsmAfter_append (l l' : List Action) (f : Fsm) : fsmAfter (l ++ l') f = fsmAfter l' (fsmAfter l f) := by
  induction l generalizing f with
  | nil => rfl
  | cons a l ih => cases a <;> exact ih _

theorem openAfter_append (l l' : List Action) (b : Bool) : openAfter (l ++ l') b = openAfter l' (openAfter l b) := by
  induction l generalizing b with
  | nil => rfl
  | cons a l ih => cases a <;> exact ih _

theorem RanTo.fsm {L : List Action} {s t : State} {f : Fsm} (h : RanTo L s t) (hs : s.fsm = fsmAfter (L.take s.upc) f) :
    t.fsm = fsmAfter (L.take t.upc) f := by
  obtain ⟨pre, hL, hran⟩ := h
  rw [hran.fsm, hs, hL, fsmAfter_append]

theorem RanTo.tOpen {L : List Action} {s t : State} {b : Bool} (h : RanTo L s t) (hs : s.tOpen = openAfter (L.take s.upc) b) :
    t.tOpen = openAfter (L.take t.upc) b := by
  obtain ⟨pre, hL, hran⟩ := h
  rw [hran.tOpen, hs, hL, openAfter_append]

theorem RanTo.actionsOf {L : List Action} {s t : State} (h : RanTo L s t) (i : Instr) : actionsOf i t = actionsOf i s := by
  obtain ⟨pre, -, hran⟩ := h
  obtain ⟨-, hrows, hfont, hbl, hdc, -⟩ := hran.mirror
  exact actionsOf_congr i s t hran.params hbl hrows hfont hdc

theorem Ran.geometry {l : List Action} {s t : State} (h : Ran l s t) (hs : legalGeometry s) : legalGeometry t := by
  obtain ⟨hcols, hrows, hfont, -⟩ := h.mirror
  simpa only [legalGeometry, hcols, hrows, hfont] using hs

/-! The operations of `Ready`. -/

theorem blAfter_eq {i : Instr} {s : State} (h : i ∉ [.backlightOn, .backlightOff, .backlightToggle]) : blAfter i s = s.bl := by
  simp only [List.mem_cons, List.not_mem_nil, not_or, or_false] at h
  obtain ⟨h1, h2, h3⟩ := h
  unfold blAfter
  split
  · exact absurd rfl h1
  · exact absurd rfl h2
  · exact absurd rfl h3
  · rfl

theorem dcAfter_eq {i : Instr} {s : State} (h : i ∉ [.displayOn, .displayOff, .displayToggle, .cursorOn, .cursorOff,
    .cursorToggle, .blinkOn, .blinkOff, .blinkToggle]) : dcAfter i s = s.dc := by
  cases i
  case displayOn | displayOff | displayToggle | cursorOn | cursorOff | cursorToggle | blinkOn | blinkOff | blinkToggle =>
    exact absurd (by decide) h
  all_goals rfl

/-- What a list of `Ready` leaves alone, and the mirror it runs with. -/
structure Spares (s t : State) : Prop where
  life : SameLife s t
  closing : t.closing = false
  req : t.busy = true → t.req = s.req
  draws : t.draws = s.draws + if t.busy then 0 else 1
  bl : t.bl = s.bl
  dc : t.dc = s.dc

theorem respond_spares {s t : State} (r : Response) (h : SameLife s t) (hdraws : t.draws = s.draws) (hbl : t.bl = s.bl)
    (hdc : t.dc = s.dc) : Spares s (respond r t) :=
  ⟨h, rfl, nofun, by simp [hdraws], hbl, hdc⟩

theorem Ran.sameLife {l : List Action} {s t : State} (h : Ran l s t) (hl : l.all Action.plain = true) : SameLife s t := by
  obtain ⟨hcols, hrows, hfont, -⟩ := h.mirror
  obtain ⟨hfsm, hopen, -⟩ := plain_lifecycle l hl
  exact ⟨h.fsm.trans (hfsm _), h.tOpen.trans (hopen _), hcols, hrows, hfont, h.params, h.inbox, h.closes⟩

/-- A list of `Ready` spares all this in every outcome. -/
theorem run_plain_spares {L : List Action} {s : State} (hp : L.all Action.plain = true) (hb : s.busy = true)
    (hc : s.closing = false) : Spares s (run abortReady L s) := by
  have hpre : ∀ {pre a post}, L = pre ++ a :: post → pre.all Action.plain = true ∧ a.plain = true := by
    rintro pre a post rfl
    simp only [List.all_append, List.all_cons, Bool.and_eq_true] at hp
    exact ⟨hp.1, hp.2.1⟩
  obtain ⟨t, hr, h⟩ | ⟨pre, a, post, hL, h, -⟩ | ⟨pre, v, post, t, r, rest, hL, h, hr⟩ |
      ⟨pre, post, t, rest, hL, h, hr⟩ := run_cases abortReady L s (plain_lifecycle L hp).2.2
  · obtain ⟨-, -, -, hbl, hdc, hdraws⟩ := h.mirror
    exact hr ▸ respond_spares .ok (h.sameLife hp) hdraws hbl hdc
  · obtain ⟨-, -, -, hbl, hdc, hdraws⟩ := h.mirror
    exact ⟨h.sameLife (hpre hL).1, h.closing.trans hc, fun _ => h.req, by simp [hdraws, h.busy, hb], hbl, hdc⟩
  · obtain ⟨-, -, -, hbl, hdc, hdraws⟩ := h.mirror
    obtain ⟨h1, h2, h3, h4, h5, h6, h7, h8⟩ := h.sameLife (hpre hL).1
    rw [hr]
    exact respond_spares .ioError (by simp [SameLife, h1, h2, h3, h4, h5, h6, h7, h8]) (by simp [hdraws]) (by simp [hbl])
      (by simp [hdc])
  · cases (hpre hL).2

/-- Settles O34: an operation turned away changes nothing of this, and the list of one that runs is plain. -/
theorem lifecycleFrame : Obligations.LifecycleFrame := by
  unfold Obligations.LifecycleFrame
  intro s t i hi h
  obtain ⟨r, rfl⟩ | ⟨-, rfl⟩ := exec_readyOp hi h
  · exact ⟨⟨rfl, rfl, rfl, rfl, rfl, rfl, rfl, rfl⟩, rfl, nofun, rfl, fun _ => rfl, fun _ => rfl⟩
  · have hrun : goOn i (opStart i s) = run abortReady (actionsOf i (opStart i s)) (opStart i s) := by
      rw [goOn, abortOf_ready (not_isInit_of_isReadyOp hi)]
      rfl
    obtain ⟨hlife, hclosing, hreq, hdraws, hbl, hdc⟩ :=
      run_plain_spares (s := opStart i s) (actionsOf_plain i (opStart i s) hi) rfl rfl
    rw [hrun]
    exact ⟨hlife, hclosing, hreq, hdraws, fun hn => hbl.trans (blAfter_eq hn), fun hn => hdc.trans (dcAfter_eq hn)⟩

end Sys2Proof.Machine
end

section
/-! PROOFS. Reset, the idle block and the status port (10_state.md R42, R48, R50). -/

namespace Sys2Proof.Machine

/-- Settles O11: each value stands in `State.reset`, and the defaults meet each bound of R10. -/
theorem resetValues : Obligations.ResetValues :=
  ⟨rfl, rfl, rfl, rfl, rfl, by decide⟩

/-- Settles O12: the controller has no turn, and the block's turn without an input leaves an idle block. -/
theorem idleRunsNothing : Obligations.IdleRunsNothing := by
  unfold Obligations.IdleRunsNothing
  intro s hwf hir hidle hinbox
  have hblock : blockTurn s = .next s := by simp [blockTurn, hidle, hinbox]
  simp [step, hwf, hir, hblock]

theorem hasHandle_iff (f : Fsm) : f.hasHandle = true ↔ f ∈ [.eightBitBoot, .fourBitLatched, .configured, .ready] := by
  cases f <;> decide

/-- Settles O59: an output that needs a handle is chosen by `hasHandle`; the others are the fields themselves. -/
theorem statusPortShows : Obligations.StatusPortShows := by
  unfold Obligations.StatusPortShows
  intro s
  refine ⟨rfl, rfl, rfl, rfl, fun hf => ?_⟩
  have hh := (hasHandle_iff s.fsm).2 hf
  exact ⟨if_pos hh, if_pos hh, if_pos hh, if_pos hh, if_pos hh⟩

end Sys2Proof.Machine
end

section
/-! PROOFS. The machine's invariant (10_state.md section 3). Three kinds of state meet it: idle, INIT under way (`Handshaking`),
an operation of `Ready` under way (`Serving`), and CLOSE at its TClose. `RanTo` carries what holds under way along a list. -/

namespace Sys2Proof.Machine

/-! The controller's memories. -/

theorem drive_memWf (v : Byte) {s : State} (h : s.lcd.memWf) : (drive v s).lcd.memWf := by
  unfold drive
  split
  · exact Lcd.memWf_latch _ _ _ h
  · exact h

theorem driveFailed_memWf (v : Byte) (reached : Bool) (s : State) : (driveFailed v reached s).lcd.memWf :=
  Lcd.memWf_desync _

theorem board_memWf (p : Params) (g : Screen) (l : List Action) {b : Byte × Lcd} (h : b.2.memWf) : (board p g l b).2.memWf := by
  induction l generalizing b with
  | nil => exact h
  | cons a l ih =>
    refine ih (b := boardStep p g b a) ?_
    cases a with
    | tWrite v =>
      simp only [boardStep]
      split
      · exact Lcd.memWf_latch _ _ _ h
      · exact h
    | wait t => exact Lcd.memWf_settle _ _ h
    | tOpen | tClose | setFsm _ => exact h

theorem Ran.memWf {l : List Action} {s t : State} (h : Ran l s t) (hs : s.lcd.memWf) : t.lcd.memWf := by
  have hb : t.lcd = (Machine.board s.params s.screen l (s.out, s.lcd)).2 := congrArg Prod.snd h.board
  exact hb ▸ board_memWf _ _ l hs

theorem Fails.memWf {t u : State} (h : Fails t u) (ht : t.lcd.memWf) : u.lcd.memWf := by
  cases h with
  | write v reached rest => exact driveFailed_memWf v reached _
  | tOpen rest => exact ht

theorem Inv.memWf {s : State} (h : Inv s) : s.lcd.memWf := ⟨h.ddramWf, h.cgramWf⟩

/-! Idle states, and states in flight. -/

theorem inv_of_shut {t : State} (hm : t.lcd.memWf) (hb : t.busy = false) (hu : t.upc = 0) (hc : t.closing = false)
    (hf : t.fsm.hasHandle = false) (ho : t.tOpen = false) : Inv t where
  ddramWf := hm.1
  cgramWf := hm.2
  idleUpc _ := hu
  transit := by rintro (h | h | h) <;> rw [h] at hf <;> cases hf
  openHandle h := nomatch hf.symm.trans h
  closing h := nomatch hc.symm.trans h
  shutIdle _ _ := ho
  geometry h := nomatch hf.symm.trans h
  flight h := nomatch hb.symm.trans h

theorem inv_of_idle_ready {t : State} (hm : t.lcd.memWf) (hb : t.busy = false) (hu : t.upc = 0) (hc : t.closing = false)
    (hf : t.fsm = .ready) (ho : t.tOpen = true) (hg : legalGeometry t) : Inv t where
  ddramWf := hm.1
  cgramWf := hm.2
  idleUpc _ := hu
  transit := by rw [hf]; rintro (h | h | h) <;> cases h
  openHandle _ := ho
  closing h := nomatch hc.symm.trans h
  shutIdle _ h := by rw [hf] at h; cases h
  geometry _ := hg
  flight h := nomatch hb.symm.trans h

theorem inv_of_inFlight {t : State} (hm : t.lcd.memWf) (hb : t.busy = true) (ho : t.fsm.hasHandle = true → t.tOpen = true)
    (hg : legalGeometry t) (hf : InFlight t) : Inv t where
  ddramWf := hm.1
  cgramWf := hm.2
  idleUpc h := nomatch hb.symm.trans h
  transit _ := hb
  openHandle := ho
  closing _ := hb
  shutIdle h := nomatch hb.symm.trans h
  geometry _ := hg
  flight _ := hf

/-- An idle block is `Ready` or has no handle: a request it turns away keeps the invariant. -/
theorem Inv.respond {s : State} (h : Inv s) (idle : s.busy = false) (r : Response) : Inv (respond r s) := by
  have hnot : s.fsm ≠ .eightBitBoot ∧ s.fsm ≠ .fourBitLatched ∧ s.fsm ≠ .configured := by
    have := h.transit
    simpa [idle] using this
  cases hf : s.fsm with
  | uninitialized | closed =>
    exact inv_of_shut h.memWf rfl rfl rfl (by simp [hf, Fsm.hasHandle]) (h.shutIdle idle (by simp [hf, Fsm.hasHandle]))
  | ready =>
    have hh : s.fsm.hasHandle = true := by rw [hf]; rfl
    exact inv_of_idle_ready h.memWf rfl rfl rfl hf (h.openHandle hh) (h.geometry hh)
  | eightBitBoot => exact absurd hf hnot.1
  | fourBitLatched => exact absurd hf hnot.2.1
  | configured => exact absurd hf hnot.2.2

/-! INIT under way. -/

theorem actionsOf_init {i : Instr} (h : i.isInit = true) (s : State) : actionsOf i s = initActions s := by
  cases i
  case init => rfl
  all_goals cases h

/-- An action less the byte it writes. -/
def Action.blank : Action → Action
  | .tWrite _ => .tWrite 0
  | a => a

theorem lifecycle_blank (l : List Action) (f : Fsm) (b : Bool) :
    fsmAfter (l.map Action.blank) f = fsmAfter l f ∧ openAfter (l.map Action.blank) b = openAfter l b := by
  induction l generalizing f b with
  | nil => exact ⟨rfl, rfl⟩
  | cons a l ih => cases a <;> exact ih _ _

theorem blank_writeNibble (p : Params) (bl : Bool) (n : Nibble) (rs : Bool) :
    (writeNibble p bl n rs).map Action.blank = [.tWrite 0, .tWrite 0, .wait .settle] := rfl

/-- INIT's list is the same for every state, but for the bytes. -/
theorem initActions_blank (s : State) : (initActions s).map Action.blank = (initActions State.reset).map Action.blank := by
  simp only [initActions, send, List.map_append, blank_writeNibble]

theorem lifecycle_initActions_take (s : State) (k : Nat) :
    fsmAfter ((initActions s).take k) .uninitialized = fsmAfter ((initActions State.reset).take k) .uninitialized ∧
    openAfter ((initActions s).take k) false = openAfter ((initActions State.reset).take k) false := by
  have hblank : ((initActions s).take k).map Action.blank = ((initActions State.reset).take k).map Action.blank := by
    rw [List.map_take, List.map_take, initActions_blank]
  obtain ⟨hfsm, hopen⟩ := lifecycle_blank ((initActions s).take k) .uninitialized false
  obtain ⟨hfsm', hopen'⟩ := lifecycle_blank ((initActions State.reset).take k) .uninitialized false
  rw [hblank] at hfsm hopen
  exact ⟨hfsm.symm.trans hfsm', hopen.symm.trans hopen'⟩

/-- INIT's list takes `S.fsm` through the handshake, with the transport open from its first action on (40_lifecycle_init.md
R153, R154). -/
theorem lifecycle_initActions (s : State) {k : Nat} (hk : k < 45) :
    fsmAfter ((initActions s).take k) .uninitialized = handshakeFsm k ∧
    openAfter ((initActions s).take k) false = decide (0 < k) := by
  have hall : ∀ k < 45, fsmAfter ((initActions State.reset).take k) .uninitialized = handshakeFsm k ∧
      openAfter ((initActions State.reset).take k) false = decide (0 < k) := by decide
  rw [(lifecycle_initActions_take s k).1, (lifecycle_initActions_take s k).2]
  exact hall k hk

/-- At its end the handshake is `Ready`, with the transport open. -/
theorem lifecycle_initActions_end (s : State) :
    fsmAfter ((initActions s).take 45) .uninitialized = .ready ∧ openAfter ((initActions s).take 45) false = true := by
  rw [(lifecycle_initActions_take s 45).1, (lifecycle_initActions_take s 45).2]
  decide

/-- INIT is under way at action `upc` of its list, or at the end of it. -/
structure Handshaking (i : Instr) (s : State) : Prop where
  init : i.isInit = true
  req : decodeRequest s.req = .ok i
  busy : s.busy = true
  upc : s.upc ≤ 45
  memory : s.lcd.memWf
  fsm : s.fsm = fsmAfter ((initActions s).take s.upc) .uninitialized
  tOpen : s.tOpen = openAfter ((initActions s).take s.upc) false
  geometry : legalGeometry s

namespace Handshaking

variable {i : Instr} {s t u : State}

theorem inv (h : Handshaking i s) (hk : s.upc < 45) (hc : s.closing = true → 0 < s.upc) : Inv s := by
  obtain ⟨hfsm, hopen⟩ := lifecycle_initActions s hk
  have hf : s.fsm = handshakeFsm s.upc := h.fsm.trans hfsm
  have ho : s.tOpen = decide (0 < s.upc) := h.tOpen.trans hopen
  have hlen : s.upc < (actionsOf i s).length := by rw [actionsOf_init h.init, (initActions_needs s).2.2.1]; exact hk
  refine inv_of_inFlight h.memory h.busy (fun hh => ?_) h.geometry
    ⟨i, h.req, hlen, fun _ => ⟨hf, ho, h.geometry, hc⟩, fun hi => nomatch h.init.symm.trans hi⟩
  rw [ho, decide_eq_true_eq]
  by_contra h0
  rw [hf, Nat.eq_zero_of_not_pos h0] at hh
  cases hh

theorem of_ranTo (h : Handshaking i s) (hr : RanTo (initActions s) s t) (hk : t.upc ≤ 45) : Handshaking i t := by
  have hL : initActions t = initActions s := by simpa only [actionsOf_init h.init] using hr.actionsOf i
  have hfsm := hr.fsm h.fsm
  have hopen := hr.tOpen h.tOpen
  rw [← hL] at hfsm hopen
  obtain ⟨pre, -, hran⟩ := hr
  exact ⟨h.init, hran.req ▸ h.req, hran.busy.trans h.busy, hk, hran.memWf h.memory, hfsm, hopen,
    hran.geometry h.geometry⟩

theorem of_fails (h : Handshaking i t) (hf : Fails t u) : Handshaking i u := by
  have hm := hf.memWf h.memory
  have hu := hf.eq
  generalize u.answers = a, u.trace = tr, u.out = o, u.lcd = l at hu hm
  subst hu
  exact ⟨h.init, h.req, h.busy, h.upc, hm, h.fsm, h.tOpen, h.geometry⟩

theorem inv_closeInit (h : Handshaking i s) (hk : s.upc < 45) (h0 : 0 < s.upc) : Inv (closeInit s) := by
  unfold closeInit
  split
  · have h' : Handshaking i { s with closing := true } :=
      ⟨h.init, h.req, h.busy, h.upc, h.memory, h.fsm, h.tOpen, h.geometry⟩
    exact h'.inv hk fun _ => h0
  · exact inv_of_shut h.memory rfl rfl rfl rfl rfl

theorem inv_abortInit (h : Handshaking i s) (hk : s.upc < 45) : Inv (abortInit s) := by
  rcases Nat.eq_zero_or_pos s.upc with h0 | h0
  · rw [abortInit_open s h0]
    exact inv_of_shut h.memory rfl rfl rfl rfl (by simp [h.tOpen, h0, openAfter])
  · rw [abortInit_write s (Nat.pos_iff_ne_zero.1 h0)]
    exact h.inv_closeInit hk h0

/-- The end of INIT's list is `Ready`. -/
theorem inv_done (h : Handshaking i s) (hk : s.upc = 45) : Inv (Machine.respond .ok s) :=
  inv_of_idle_ready h.memory rfl rfl rfl (h.fsm.trans (hk ▸ (lifecycle_initActions_end s).1))
    (h.tOpen.trans (hk ▸ (lifecycle_initActions_end s).2)) h.geometry

theorem inv_goOn (h : Handshaking i s) (hc : s.closing = false) : Inv (goOn i s) := by
  obtain ⟨-, -, hlen, hsess⟩ := initActions_needs s
  rw [goOn, actionsOf_init h.init, abortOf_init h.init]
  obtain ⟨t, hrun, hr, hk⟩ | ⟨hr, hk⟩ | ⟨t, u, hrun, hf, hr, hk⟩ :=
    run_rest abortInit hsess (hlen ▸ h.upc : s.upc ≤ (initActions s).length)
  · rw [hrun]
    exact (h.of_ranTo hr (by omega)).inv_done (hk.trans hlen)
  · refine (h.of_ranTo hr (by omega)).inv (by omega) fun hcl => ?_
    obtain ⟨pre, -, hran⟩ := hr
    exact nomatch hcl.symm.trans (hran.closing.trans hc)
  · have ht := h.of_ranTo hr (by omega)
    have hupc : u.upc = t.upc := by rw [hf.eq]
    rw [hrun]
    exact (ht.of_fails hf).inv_abortInit (by omega)

end Handshaking

/-! An operation of `Ready` under way. -/

/-- One of the 17 operations of `Ready` is under way at action `upc` of its list, or at the end of it. -/
structure Serving (i : Instr) (s : State) : Prop where
  op : isReadyOp i = true
  req : decodeRequest s.req = .ok i
  busy : s.busy = true
  closing : s.closing = false
  upc : s.upc ≤ (actionsOf i s).length
  memory : s.lcd.memWf
  fsm : s.fsm = .ready
  tOpen : s.tOpen = true
  geometry : legalGeometry s

namespace Serving

variable {i : Instr} {s t u : State}

theorem inv (h : Serving i s) (hk : s.upc < (actionsOf i s).length) : Inv s := by
  have hne := ne_close_of_isReadyOp h.op
  exact inv_of_inFlight h.memory h.busy (fun _ => h.tOpen) h.geometry
    ⟨i, h.req, hk, fun hi => absurd hi (Bool.eq_false_iff.1 (not_isInit_of_isReadyOp h.op)),
      fun _ => ⟨h.fsm, h.closing.trans (decide_eq_false hne).symm, fun hi => absurd hi hne⟩⟩

theorem of_ranTo (h : Serving i s) (hr : RanTo (actionsOf i s) s t) (hk : t.upc ≤ (actionsOf i s).length) : Serving i t := by
  have hk' : t.upc ≤ (actionsOf i t).length := by rw [hr.actionsOf i]; exact hk
  have hplain : ∀ k, fsmAfter ((actionsOf i s).take k) .ready = .ready ∧ openAfter ((actionsOf i s).take k) true = true := by
    intro k
    have hp : ((actionsOf i s).take k).all Action.plain = true :=
      List.all_eq_true.2 fun a ha => List.all_eq_true.1 (actionsOf_plain i s h.op) a (List.mem_of_mem_take ha)
    exact ⟨(plain_lifecycle _ hp).1 _, (plain_lifecycle _ hp).2.1 _⟩
  have hfsm := hr.fsm (h.fsm.trans (hplain s.upc).1.symm)
  have hopen := hr.tOpen (h.tOpen.trans (hplain s.upc).2.symm)
  obtain ⟨pre, -, hran⟩ := hr
  exact ⟨h.op, hran.req ▸ h.req, hran.busy.trans h.busy, hran.closing.trans h.closing, hk', hran.memWf h.memory,
    hfsm.trans (hplain t.upc).1, hopen.trans (hplain t.upc).2, hran.geometry h.geometry⟩

theorem inv_respond (h : Serving i s) (r : Response) : Inv (Machine.respond r s) :=
  inv_of_idle_ready h.memory rfl rfl rfl h.fsm h.tOpen h.geometry

theorem inv_abortReady (h : Serving i t) (hf : Fails t u) : Inv (abortReady u) := by
  have hm := hf.memWf h.memory
  have hu := hf.eq
  generalize u.answers = a, u.trace = tr, u.out = o, u.lcd = l at hu hm
  subst hu
  exact inv_of_idle_ready hm rfl rfl rfl h.fsm h.tOpen h.geometry

theorem inv_goOn (h : Serving i s) : Inv (goOn i s) := by
  rw [goOn, abortOf_ready (not_isInit_of_isReadyOp h.op)]
  obtain ⟨t, hrun, hr, hk⟩ | ⟨hr, hk⟩ | ⟨t, u, hrun, hf, hr, hk⟩ :=
    run_rest abortReady (plain_lifecycle _ (actionsOf_plain i s h.op)).2.2 h.upc
  · rw [hrun]
    exact (h.of_ranTo hr hk.le).inv_respond .ok
  · have ht := h.of_ranTo hr hk.le
    exact ht.inv (by rw [hr.actionsOf i]; exact hk)
  · rw [hrun]
    exact (h.of_ranTo hr hk.le).inv_abortReady hf

end Serving

/-! CLOSE. -/

theorem goOn_close_held {s : State} (hk : s.upc = 0) (hc : s.closes = 0) : goOn .close s = { s with closing := true } := by
  have hlist : (actionsOf .close s).drop s.upc = [.tClose, .setFsm .closed] := by rw [hk]; rfl
  rw [goOn, hlist]
  exact run_unclosed abortReady [.setFsm .closed] s hc

theorem goOn_close_done {s : State} {n : Nat} (hk : s.upc = 0) (hc : s.closes = n + 1) :
    goOn .close s = respond .ok (dropMirror { finishClose n s with fsm := .closed }) := by
  have hlist : (actionsOf .close s).drop s.upc = [.tClose, .setFsm .closed] := by rw [hk]; rfl
  rw [goOn, hlist, run_tClose _ _ s n hc, run_setFsm, run_nil]
  rfl

theorem inv_goOn_close {s : State} (hreq : decodeRequest s.req = .ok .close) (hb : s.busy = true) (hk : s.upc = 0)
    (hm : s.lcd.memWf) (hf : s.fsm = .ready) (ho : s.tOpen = true) (hg : legalGeometry s) : Inv (goOn .close s) := by
  cases hc : s.closes with
  | zero =>
    rw [goOn_close_held hk hc]
    exact inv_of_inFlight hm hb (fun _ => ho) hg
      ⟨.close, hreq, by simp [hk, actionsOf, closeActions], nofun, fun _ => ⟨hf, rfl, fun _ => hk⟩⟩
  | succ n =>
    rw [goOn_close_done hk hc]
    exact inv_of_shut hm rfl rfl rfl rfl rfl

/-! Operations begun and gone on with. -/

/-- INIT's validation admits legal geometries and fonts only (40_lifecycle_init.md R151, 10_state.md R34). -/
theorem legalGeometry_of_initValid {cols rows : Byte} {font : Nibble} (h : initValid cols rows font = true) (bl0 : Bool)
    (s : State) : legalGeometry (initWrites cols rows font bl0 s) := by
  simp only [initValid, Config.colsSet, Config.rowsSet, List.contains_cons, List.contains_nil, Bool.or_false,
    Bool.and_eq_true, Bool.or_eq_true, beq_iff_eq, Bool.not_eq_true', Bool.and_eq_false_iff, beq_eq_false_iff_ne,
    bne_eq_false_iff_eq] at h
  obtain ⟨⟨⟨hc, hr⟩, hf⟩, hfr⟩ := h
  refine ⟨hc, hr, fun hb => ?_⟩
  rcases hfr with hne | hr1
  · rcases hf with rfl | rfl
    · cases hb
    · exact absurd rfl hne
  · exact hr1

theorem Inv.goOn_begun {s : State} (h : Inv s) (idle : s.busy = false) {w : Word} {i : Instr}
    (hw : decodeRequest w = .ok i) (ha : Admits i s.fsm) : Inv (goOn i (begun i { s with req := w, busy := true })) := by
  have hready : s.fsm = .ready → s.tOpen = true ∧ legalGeometry s := fun hf =>
    ⟨h.openHandle (by rw [hf]; rfl), h.geometry (by rw [hf]; rfl)⟩
  obtain hi | rfl | hop := request_cases (isRequest_of_decodeRequest hw)
  · cases i
    case init cols rows font bl0 =>
      obtain ⟨hf, hv⟩ := ha
      have hno : s.fsm.hasHandle = false := by rcases hf with hf | hf <;> rw [hf] <;> rfl
      have hs : Handshaking (.init cols rows font bl0) (begun (.init cols rows font bl0) { s with req := w, busy := true }) :=
        ⟨rfl, hw, rfl, Nat.zero_le _, h.memWf, rfl, h.shutIdle idle hno, legalGeometry_of_initValid hv bl0 _⟩
      exact hs.inv_goOn rfl
    all_goals cases hi
  · obtain ⟨ho, hg⟩ := hready ha
    exact inv_goOn_close (s := begun .close { s with req := w, busy := true }) hw rfl rfl h.memWf ha ho hg
  · have hni := not_isInit_of_isReadyOp hop
    have hf := (admits_iff_ready hni _).1 ha
    obtain ⟨ho, hg⟩ := hready hf
    rw [begun_eq_opStart hni]
    have hs : Serving i (opStart i { s with req := w, busy := true }) :=
      ⟨hop, hw, rfl, rfl, Nat.zero_le _, h.memWf, hf, ho, hg⟩
    exact hs.inv_goOn

/-- The operation in flight, at the word in the latch. -/
theorem Inv.flight_of {s : State} (h : Inv s) (hb : s.busy = true) {i : Instr} (hw : decodeRequest s.req = .ok i) :
    s.upc < (actionsOf i s).length ∧
    (i.isInit = true → s.fsm = handshakeFsm s.upc ∧ s.tOpen = decide (0 < s.upc) ∧ legalGeometry s ∧
      (s.closing = true → 0 < s.upc)) ∧
    (i.isInit = false → s.fsm = .ready ∧ s.closing = decide (i = .close) ∧ (i = .close → s.upc = 0)) := by
  obtain ⟨j, hj, hflight⟩ := h.flight hb
  cases hj.symm.trans hw
  exact hflight

theorem Inv.handshaking {s : State} (h : Inv s) (hb : s.busy = true) {i : Instr} (hw : decodeRequest s.req = .ok i)
    (hi : i.isInit = true) : Handshaking i s ∧ s.upc < 45 ∧ (s.closing = true → 0 < s.upc) := by
  obtain ⟨hk, hinit, -⟩ := h.flight_of hb hw
  rw [actionsOf_init hi, (initActions_needs s).2.2.1] at hk
  obtain ⟨hf, ho, hg, hc⟩ := hinit hi
  exact ⟨⟨hi, hw, hb, hk.le, h.memWf, hf.trans (lifecycle_initActions s hk).1.symm,
    ho.trans (lifecycle_initActions s hk).2.symm, hg⟩, hk, hc⟩

theorem Inv.ready_flight {s : State} (h : Inv s) (hb : s.busy = true) {i : Instr} (hw : decodeRequest s.req = .ok i)
    (hi : i.isInit = false) : s.fsm = .ready ∧ s.tOpen = true ∧ legalGeometry s := by
  obtain ⟨-, -, hready⟩ := h.flight_of hb hw
  have hf := (hready hi).1
  exact ⟨hf, h.openHandle (by rw [hf]; rfl), h.geometry (by rw [hf]; rfl)⟩

theorem Inv.goOn {s : State} (h : Inv s) (hb : s.busy = true) {i : Instr} (hw : decodeRequest s.req = .ok i)
    (hc : (i.isInit && s.closing) = false) : Inv (goOn i s) := by
  cases hi : i.isInit with
  | true =>
    rw [hi, Bool.true_and] at hc
    exact (h.handshaking hb hw hi).1.inv_goOn hc
  | false =>
    obtain ⟨hf, ho, hg⟩ := h.ready_flight hb hw hi
    obtain ⟨hk, -, hready⟩ := h.flight_of hb hw
    obtain ⟨-, hcl, hk0⟩ := hready hi
    obtain hinit | rfl | hop := request_cases (isRequest_of_decodeRequest hw)
    · exact nomatch hinit.symm.trans hi
    · exact inv_goOn_close hw hb (hk0 rfl) h.memWf hf ho hg
    · have hs : Serving i s :=
        ⟨hop, hw, hb, hcl.trans (decide_eq_false (ne_close_of_isReadyOp hop)), hk.le, h.memWf, hf, ho, hg⟩
      exact hs.inv_goOn

/-! One step. -/

/-- The invariant reads the block's own fields and the controller's memories. -/
theorem Inv.congr_env {s : State} (h : Inv s) {lcd : Lcd} (hm : lcd.memWf) (l : List Input) (a : List Answer) (d c : Nat) :
    Inv { s with lcd := lcd, inbox := l, answers := a, delays := d, closes := c } where
  ddramWf := hm.1
  cgramWf := hm.2
  idleUpc := h.idleUpc
  transit := h.transit
  openHandle := h.openHandle
  closing := h.closing
  shutIdle := h.shutIdle
  geometry := h.geometry
  flight hb := by
    obtain ⟨i, hw, hk, hflight⟩ := h.flight hb
    have hlist := actionsOf_congr i s
      { s with lcd := lcd, inbox := l, answers := a, delays := d, closes := c } rfl rfl rfl rfl rfl
    exact ⟨i, hw, hlist ▸ hk, hflight⟩

theorem Inv.supplied {s : State} (h : Inv s) (l : List Input) (a : List Answer) (d c : Nat) : Inv (s.supplied l a d c) :=
  h.congr_env h.memWf l a d c

theorem Inv.hardReset {s : State} (h : Inv s) (landed : Bool) : Inv (hardReset landed s) := by
  have hm : (Machine.hardReset landed s).lcd.memWf := by
    unfold Machine.hardReset
    cases pendingWrite s with
    | none => exact h.memWf
    | some v =>
      cases landed with
      | false => exact h.memWf
      | true => exact drive_memWf v h.memWf
  exact inv_of_shut hm rfl rfl rfl rfl rfl

theorem Turn.inv {s t : State} (h : Inv s) (hturn : Turn s t) : Inv t := by
  cases hturn with
  | controller rs b =>
    have hm : Lcd.memWf { s.lcd with ir := none } := h.memWf
    exact h.congr_env (Lcd.memWf_byte s.screen rs b _ hm) s.inbox s.answers s.delays s.closes
  | reset landed => exact h.hardReset landed
  | stands _ => exact h
  | turnedAway idle r => exact h.respond idle r
  | begins idle w i hw ha => exact h.goOn_begun idle hw ha
  | goesOn busy i hw hc => exact h.goOn busy hw hc
  | closes busy i hw hi hc =>
    obtain ⟨hs, hk, h0⟩ := h.handshaking busy hw hi
    exact hs.inv_closeInit hk (h0 hc)

/-- Settles O51: every turn keeps the invariant. -/
theorem invKept : Obligations.InvKept := by
  unfold Obligations.InvKept
  intro s t h hstep
  obtain ⟨-, l, a, d, c, hturn⟩ := step_turn hstep
  exact hturn.inv (h.supplied l a d c)

/-- Settles O50: the block is idle without a handle, and there is no INIT that enable could have been low since. -/
theorem invAtReset : Obligations.InvAtReset :=
  ⟨inv_of_shut ⟨⟨rfl, rfl⟩, rfl, rfl⟩ rfl rfl rfl rfl rfl, fun _ => ⟨fun _ => nofun, nofun⟩⟩

end Sys2Proof.Machine
end

section
/-! PROOFS. No byte is written unless the transport is open (10_state.md R40): with a handle it is, by the invariant, and INIT
opens it with its first action. -/

namespace Sys2Proof.Machine

/-- What the trace gains from `s` to `t`, if it has a write in it, begins with the transport's opening. -/
def OpensFirst (s t : State) : Prop :=
  ∀ tr, t.trace = s.trace ++ tr → writesOf tr ≠ [] → tr.head? = some (.evOpen .ok)

theorem opensFirst_of_trace {s t : State} {tr : List Event} (h : t.trace = s.trace ++ tr) (hw : writesOf tr = []) :
    OpensFirst s t := by
  intro tr' h' hne
  rw [List.append_cancel_left (h'.symm.trans h)] at hne
  exact absurd hw hne

theorem opensFirst_of_opened {s t : State} {tr : List Event} (h : t.trace = s.trace ++ .evOpen .ok :: tr) : OpensFirst s t := by
  intro tr' h' _
  rw [List.append_cancel_left (h'.symm.trans h)]
  rfl

theorem run_tOpen_opensFirst (l : List Action) {s : State} (hk : s.upc = 0) : OpensFirst s (run abortInit (.tOpen :: l) s) := by
  rcases ha : s.answers with _ | ⟨_ | r, rest⟩
  · rw [run_unanswered _ .tOpen l s ha rfl]
    exact opensFirst_of_trace (List.append_nil _).symm rfl
  · rw [run_tOpen_ok _ l s rest ha]
    obtain ⟨-, ⟨tr, htr⟩, -⟩ := run_grows (abortOf_grows (.init 0 0 0 false)) l
      { s with answers := rest, trace := s.trace ++ [.evOpen .ok], tOpen := true, upc := s.upc + 1 }
    exact opensFirst_of_opened (htr.trans (List.append_assoc _ _ _))
  · rw [run_tOpen_err _ l s rest r ha, abortInit_open _ (by exact hk)]
    exact opensFirst_of_trace (tr := [.evOpen .err]) rfl rfl

theorem initActions_head (s : State) :
    ∃ v l, initActions s = .tOpen :: .wait .powerOn :: .setFsm .eightBitBoot :: .tWrite v :: l := by
  simp [initActions, writeNibble]

theorem goOn_init_opensFirst {i : Instr} (hi : i.isInit = true) {s : State} (hk : s.upc = 0) : OpensFirst s (goOn i s) := by
  obtain ⟨v, l, hlist⟩ := initActions_head s
  rw [goOn, actionsOf_init hi, hk, List.drop_zero, hlist, abortOf_init hi]
  exact run_tOpen_opensFirst _ hk

theorem Turn.open_or_opensFirst {s t : State} (h : Inv s) (hturn : Turn s t) : s.tOpen = true ∨ OpensFirst s t := by
  cases hturn with
  | controller rs b => exact .inr (opensFirst_of_trace (List.append_nil _).symm rfl)
  | reset landed =>
    obtain ⟨-, htrace, -⟩ := hardReset_same landed s
    exact .inr (opensFirst_of_trace (htrace.trans (List.append_nil _).symm) rfl)
  | stands _ => exact .inr (opensFirst_of_trace (List.append_nil _).symm rfl)
  | turnedAway _ r => exact .inr (opensFirst_of_trace (List.append_nil _).symm rfl)
  | begins idle w i hw ha =>
    cases hi : i.isInit with
    | true =>
      cases i
      case init cols rows font bl0 =>
        exact .inr (goOn_init_opensFirst (s := begun (.init cols rows font bl0) { s with req := w, busy := true }) rfl rfl)
      all_goals cases hi
    | false =>
      have hf := (admits_iff_ready hi _).1 ha
      exact .inl (h.openHandle (by rw [hf]; rfl))
  | goesOn busy i hw hc =>
    cases hi : i.isInit with
    | true =>
      obtain ⟨-, hinit, -⟩ := h.flight_of busy hw
      obtain ⟨-, ho, -⟩ := hinit hi
      rcases Nat.eq_zero_or_pos s.upc with h0 | h0
      · exact .inr (goOn_init_opensFirst hi h0)
      · exact .inl (ho.trans (decide_eq_true h0))
    | false =>
      obtain ⟨-, ho, -⟩ := h.ready_flight busy hw hi
      exact .inl ho
  | closes busy i hw hi hc =>
    obtain ⟨-, hinit, -⟩ := h.flight_of busy hw
    obtain ⟨-, ho, -, h0⟩ := hinit hi
    exact .inl (ho.trans (decide_eq_true (h0 hc)))

/-- Settles O56: a turn that meets the transport shut writes nothing, or opens it first. -/
theorem writesNeedAnOpenTransport : Obligations.WritesNeedAnOpenTransport := by
  unfold Obligations.WritesNeedAnOpenTransport
  intro s t tr h hstep htr hw
  obtain ⟨-, l, a, d, c, hturn⟩ := step_turn hstep
  obtain ho | hfirst := hturn.open_or_opensFirst (h.supplied l a d c)
  · exact .inl ho
  · exact .inr (hfirst tr htr hw)

end Sys2Proof.Machine
end

section
/-! PROOFS. Enable low between operations (10_state.md R44, 41_framing.md R183): in every list a byte that raises the enable line
is followed by one that lowers it (`paired_actionsOf`), so that after any of its actions the line is low or the next action lowers
it (`calm_after`). -/

namespace Sys2Proof.Machine

/-! Lists that lower what they raise. -/

/-- With `b` on the expander and `l` to come, enable is low, or the next action lowers it. -/
def Calm (p : Params) (l : List Action) (b : Byte) : Prop :=
  enableHigh p b = false ∨ ∃ v, l.head? = some (.tWrite v) ∧ enableHigh p v = false

/-- Every write that raises enable has one that lowers it right after it. -/
def Paired (p : Params) : List Action → Prop
  | [] => True
  | a :: l => (∀ v, a = .tWrite v → Calm p l v) ∧ Paired p l

variable {p : Params}

theorem Paired.append {l l' : List Action} (h : Paired p l) (h' : Paired p l') : Paired p (l ++ l') := by
  induction l with
  | nil => exact h'
  | cons a l ih =>
    obtain ⟨ha, hl⟩ := h
    refine ⟨fun v hv => ?_, ih hl⟩
    obtain hlow | ⟨w, hw, hlow⟩ := ha v hv
    · exact .inl hlow
    · have hhead : (l ++ l').head? = some (.tWrite w) := by rw [List.head?_append, hw]; rfl
      exact .inr ⟨w, hhead, hlow⟩

theorem paired_drop {l : List Action} (h : Paired p l) (k : Nat) : Paired p (l.drop k) := by
  induction l generalizing k with
  | nil => rwa [List.drop_nil]
  | cons a l ih =>
    cases k with
    | zero => exact h
    | succ k => exact ih h.2 k

theorem paired_writeNibble (hm : p.masksWf = true) (bl rs : Bool) (n : Nibble) : Paired p (writeNibble p bl n rs) := by
  have hlow : enableHigh p (xbyte p bl n rs false) = false := (xbyte_fields p hm bl rs false n).1
  refine ⟨?_, ?_, nofun, trivial⟩
  · exact fun v _ => .inr ⟨_, rfl, hlow⟩
  · rintro v ⟨⟩
    exact .inl hlow

theorem paired_send (hm : p.masksWf = true) (bl rs : Bool) (v : Byte) : Paired p (send p bl v rs) :=
  (paired_writeNibble hm bl rs _).append (paired_writeNibble hm bl rs _)

theorem paired_sends (hm : p.masksWf = true) (bl rs : Bool) (l : List Byte) :
    Paired p (l.flatMap fun b => send p bl b rs) := by
  induction l with
  | nil => trivial
  | cons b l ih => exact (paired_send hm bl rs b).append ih

theorem paired_wait (t : Delay) : Paired p [.wait t] := ⟨nofun, trivial⟩

theorem paired_setFsm (f : Fsm) : Paired p [.setFsm f] := ⟨nofun, trivial⟩

theorem paired_initActions {s : State} (hm : s.params.masksWf = true) : Paired s.params (initActions s) := by
  have hnibble := fun n => paired_writeNibble hm s.bl false n
  have hcommand := fun v => paired_send hm s.bl false v
  have hopen : Paired s.params [.tOpen, .wait .powerOn, .setFsm .eightBitBoot] := ⟨nofun, nofun, nofun, trivial⟩
  have hend : Paired s.params [.wait .clear, .setFsm .ready] := ⟨nofun, nofun, trivial⟩
  exact hopen.append (hnibble _) |>.append (paired_wait _) |>.append (hnibble _) |>.append (paired_wait _)
    |>.append (hnibble _) |>.append (hnibble _) |>.append (paired_setFsm _) |>.append (hcommand _)
    |>.append (paired_setFsm _) |>.append (hcommand _) |>.append (hcommand _) |>.append (hcommand _) |>.append hend

theorem paired_blApplyActions {s : State} (hm : s.params.masksWf = true) : Paired s.params (blApplyActions s) := by
  unfold blApplyActions
  split
  · exact paired_send hm _ _ _
  · have hbare : (if s.bl then s.params.blMask else 0) = xbyte s.params s.bl 0 false false := by simp [xbyte, ctl]
    refine ⟨?_, trivial⟩
    rintro v ⟨⟩
    rw [hbare]
    exact .inl (xbyte_fields s.params hm s.bl false false 0).1
  · trivial

theorem paired_actionsOf (i : Instr) {s : State} (hm : s.params.masksWf = true) : Paired s.params (actionsOf i s) := by
  cases i
  case init => exact paired_initActions hm
  case close => exact ⟨nofun, nofun, trivial⟩
  case clear | home => exact (paired_send hm _ _ _).append (paired_wait _)
  case uploadCustomChar => exact (paired_send hm _ _ _).append (paired_sends hm _ _ _)
  case backlightOn | backlightOff | backlightToggle => exact paired_blApplyActions hm
  case lcdClear | lcdHome | lcdEntryMode | lcdDisplayControl | lcdShift | lcdFunctionSet | lcdSetCgramAddr |
      lcdSetDdramAddr => trivial
  all_goals exact paired_send hm _ _ _

/-! The expander along a list. -/

theorem calm_after {pre post : List Action} {b : Byte} (hp : Paired p (pre ++ post)) (hb : Calm p (pre ++ post) b) :
    Calm p post ((writesOf (okEvents pre)).getLastD b) := by
  induction pre generalizing b with
  | nil => exact hb
  | cons a pre ih =>
    obtain ⟨ha, hp⟩ := hp
    have hother : (∀ v, a ≠ .tWrite v) → Calm p (pre ++ post) b := by
      intro hn
      obtain hlow | ⟨v, hv, -⟩ := hb
      · exact .inl hlow
      · exact absurd (Option.some.inj hv) (hn v)
    cases a with
    | tWrite v =>
      have hlast : (writesOf (okEvents (.tWrite v :: pre))).getLastD b = (writesOf (okEvents pre)).getLastD v :=
        List.getLastD_cons ..
      rw [hlast]
      exact ih hp (ha v rfl)
    | tOpen | tClose | wait _ | setFsm _ => exact ih hp (hother nofun)

/-- After a write of the list it does not matter what stood on the expander before it. -/
theorem calm_after_write {pre post : List Action} (b : Byte) (hp : Paired p (pre ++ post))
    (hw : writesOf (okEvents pre) ≠ []) : Calm p post ((writesOf (okEvents pre)).getLastD b) := by
  have h0 : Calm p (pre ++ post) 0 := .inl (by simp [enableHigh])
  have hlast := calm_after hp h0
  rwa [List.getLastD_eq_getLast?, List.getLast?_eq_getLast_of_ne_nil hw] at hlast ⊢

theorem drop_eq_of_take_eq {α : Type} {L pre : List α} {j k : Nat} (h : L.take k = L.take j ++ pre) :
    L.drop j = pre ++ L.drop k := by
  refine List.append_cancel_left (as := L.take j) ?_
  rw [← List.append_assoc, ← h, List.take_append_drop, List.take_append_drop]

theorem writesOf_initActions_head (s : State) {k : Nat} (hk : k ≤ 3) : writesOf (okEvents ((initActions s).take k)) = [] := by
  obtain ⟨v, l, hlist⟩ := initActions_head s
  rw [hlist]
  interval_cases k <;> rfl

theorem writesOf_initActions_after (s : State) {k : Nat} (hk : 3 < k) :
    writesOf (okEvents ((initActions s).take k)) ≠ [] := by
  obtain ⟨v, l, hlist⟩ := initActions_head s
  obtain ⟨j, rfl⟩ := Nat.exists_eq_add_of_lt hk
  rw [hlist, show 3 + j + 1 = j + 4 by omega]
  exact List.cons_ne_nil v _

/-! Operations under way. -/

/-- What `EnableQuiet` asks of an operation under way: INIT before its first write, or the line calm. -/
def Quiet (i : Instr) (s : State) : Prop :=
  i.isInit = true ∧ s.upc ≤ 3 ∨ Calm s.params ((actionsOf i s).drop s.upc) s.out

variable {i : Instr} {s t : State}

theorem Quiet.of_ranTo (h : Quiet i s) (hm : s.params.masksWf = true) (hr : RanTo (actionsOf i s) s t) : Quiet i t := by
  have hlist := hr.actionsOf i
  obtain ⟨pre, hL, hran⟩ := hr
  have hdrop := drop_eq_of_take_eq hL
  have hp := paired_drop (paired_actionsOf i hm) s.upc
  rw [hdrop] at hp
  unfold Quiet
  rw [hlist, hran.params, hran.out]
  obtain ⟨hi, hk⟩ | hcalm := h
  · by_cases hk' : t.upc ≤ 3
    · exact .inl ⟨hi, hk'⟩
    · have hw := writesOf_initActions_after s (Nat.lt_of_not_le hk')
      rw [actionsOf_init hi] at hL
      rw [hL, okEvents_append, writesOf_append, writesOf_initActions_head s hk, List.nil_append] at hw
      exact .inr (calm_after_write s.out hp hw)
  · rw [hdrop] at hcalm
    exact .inr (calm_after hp hcalm)

theorem enableQuiet_of_fault (h : t.ioFault = true) : EnableQuiet t :=
  fun h0 => nomatch h.symm.trans h0

theorem enableQuiet_of_idle (hb : t.busy = false)
    (h : t.ioFault = false → t.fsm = .ready → enableHigh t.params t.out = false) : EnableQuiet t :=
  fun h0 => ⟨fun _ => h h0, fun hb' => nomatch hb.symm.trans hb'⟩

theorem enableQuiet_of_quiet (hw : decodeRequest t.req = .ok i) (hb : t.busy = true)
    (h : t.ioFault = false → Quiet i t) : EnableQuiet t := by
  refine fun h0 => ⟨fun hb' => (nomatch hb.symm.trans hb'), fun _ j hj => ?_⟩
  cases hj.symm.trans hw
  obtain ⟨hi, hk⟩ | hlow | ⟨v, hv, hlow⟩ := h h0
  · exact .inl ⟨hi, .inl hk⟩
  · exact .inr (.inl hlow)
  · exact .inr (.inr ⟨v, by rw [← List.head?_drop]; exact hv, hlow⟩)

theorem EnableQuiet.quiet (h : EnableQuiet s) (h0 : s.ioFault = false) (hb : s.busy = true)
    (hw : decodeRequest s.req = .ok i) (hc : (i.isInit && s.closing) = false) : Quiet i s := by
  obtain ⟨hi, hk | hcl⟩ | hlow | ⟨v, hv, hlow⟩ := (h h0).2 hb i hw
  · exact .inl ⟨hi, hk⟩
  · simp [hi, hcl] at hc
  · exact .inr (.inl hlow)
  · exact .inr (.inr ⟨v, by rw [List.head?_drop]; exact hv, hlow⟩)

theorem enableQuiet_closeInit (hw : decodeRequest s.req = .ok i) (hi : i.isInit = true) (hb : s.busy = true) :
    EnableQuiet (closeInit s) := by
  unfold closeInit
  split
  · refine fun _ => ⟨fun hb' => (nomatch hb.symm.trans hb'), fun _ j hj => ?_⟩
    cases hj.symm.trans hw
    exact .inl ⟨hi, .inr rfl⟩
  · exact enableQuiet_of_fault rfl

theorem enableQuiet_abortOf (hw : decodeRequest s.req = .ok i) (hb : s.busy = true) : EnableQuiet (abortOf i s) := by
  cases hi : i.isInit with
  | true =>
    rw [abortOf_init hi, abortInit]
    split
    · exact enableQuiet_of_fault rfl
    · exact enableQuiet_closeInit hw hi hb
  | false =>
    rw [abortOf_ready hi]
    exact enableQuiet_of_fault rfl

/-- Running the rest of a list that does not end the handle. -/
theorem enableQuiet_goOn (hm : s.params.masksWf = true) (hw : decodeRequest s.req = .ok i) (hb : s.busy = true)
    (hs : (actionsOf i s).all Action.inSession = true) (hk : s.upc ≤ (actionsOf i s).length)
    (h3 : i.isInit = true → 3 < (actionsOf i s).length) (hq : s.ioFault = false → Quiet i s) : EnableQuiet (goOn i s) := by
  have hran : ∀ {u}, RanTo (actionsOf i s) s u →
      decodeRequest u.req = .ok i ∧ u.busy = true ∧ (u.ioFault = false → Quiet i u) := by
    intro u hr
    have hquiet : s.ioFault = false → Quiet i u := fun h0 => (hq h0).of_ranTo hm hr
    obtain ⟨pre, -, h⟩ := hr
    exact ⟨h.req ▸ hw, h.busy.trans hb, fun h0 => hquiet (h.ioFault ▸ h0)⟩
  obtain ⟨t, hrun, hr, hend⟩ | ⟨hr, -⟩ | ⟨t, u, hrun, hf, hr, -⟩ := run_rest (abortOf i) hs hk
  · rw [goOn, hrun]
    refine enableQuiet_of_idle rfl fun h0 _ => ?_
    obtain ⟨hi, hk⟩ | hlow | ⟨v, hv, -⟩ := (hran hr).2.2 h0
    · have := h3 hi
      omega
    · exact hlow
    · rw [hr.actionsOf i, hend, List.drop_length] at hv
      cases hv
  · obtain ⟨hw', hb', hq'⟩ := hran hr
    exact enableQuiet_of_quiet hw' hb' hq'
  · obtain ⟨hw', hb', -⟩ := hran hr
    rw [goOn, hrun]
    exact enableQuiet_abortOf (by rw [hf.eq]; exact hw') (by rw [hf.eq]; exact hb')

theorem enableQuiet_goOn_close (hw : decodeRequest s.req = .ok .close) (hb : s.busy = true) (hk : s.upc = 0)
    (hq : s.ioFault = false → Quiet .close s) : EnableQuiet (goOn .close s) := by
  cases hc : s.closes with
  | zero =>
    rw [goOn_close_held hk hc]
    exact enableQuiet_of_quiet (i := .close) hw hb hq
  | succ n =>
    rw [goOn_close_done hk hc]
    exact enableQuiet_of_idle rfl nofun

/-- An operation under way, INIT, CLOSE or one of `Ready`, keeps the line quiet. -/
theorem enableQuiet_goOn_request (hm : s.params.masksWf = true) (hw : decodeRequest s.req = .ok i) (hb : s.busy = true)
    (hk : s.upc ≤ (actionsOf i s).length) (hclose : i = .close → s.upc = 0) (hq : s.ioFault = false → Quiet i s) :
    EnableQuiet (goOn i s) := by
  obtain hi | rfl | hop := request_cases (isRequest_of_decodeRequest hw)
  · obtain ⟨-, -, hlen, hsess⟩ := initActions_needs s
    rw [← actionsOf_init hi] at hlen hsess
    exact enableQuiet_goOn hm hw hb hsess hk (fun _ => by omega) hq
  · exact enableQuiet_goOn_close hw hb (hclose rfl) hq
  · exact enableQuiet_goOn hm hw hb (plain_lifecycle _ (actionsOf_plain i s hop)).2.2 hk
      (fun hi => nomatch hi.symm.trans (not_isInit_of_isReadyOp hop)) hq

theorem enableQuiet_goOn_begun (hm : s.params.masksWf = true) (h : EnableQuiet s) (idle : s.busy = false) {w : Word}
    (hw : decodeRequest w = .ok i) (ha : Admits i s.fsm) :
    EnableQuiet (goOn i (begun i { s with req := w, busy := true })) := by
  cases hi : i.isInit with
  | true =>
    cases i
    case init cols rows font bl0 =>
      exact enableQuiet_goOn_request (s := begun (.init cols rows font bl0) { s with req := w, busy := true }) hm hw rfl
        (Nat.zero_le _) nofun fun _ => .inl ⟨rfl, Nat.zero_le _⟩
    all_goals cases hi
  | false =>
    have hf := (admits_iff_ready hi _).1 ha
    rw [begun_eq_opStart hi]
    exact enableQuiet_goOn_request (s := opStart i { s with req := w, busy := true }) hm hw rfl (Nat.zero_le _)
      (fun _ => rfl) fun h0 => .inr (.inl ((h h0).1 idle hf))

/-! One step. -/

/-- `EnableQuiet` reads the block's own fields and the expander. -/
theorem EnableQuiet.congr_env (h : EnableQuiet s) (lcd : Lcd) (l : List Input) (a : List Answer) (d c : Nat) :
    EnableQuiet { s with lcd := lcd, inbox := l, answers := a, delays := d, closes := c } := by
  intro h0
  refine ⟨(h h0).1, fun hb i hw => ?_⟩
  have hlist := actionsOf_congr i s
    { s with lcd := lcd, inbox := l, answers := a, delays := d, closes := c } rfl rfl rfl rfl rfl
  rw [hlist]
  exact (h h0).2 hb i hw

theorem Turn.enableQuiet (hm : s.params.masksWf = true) (hinv : Inv s) (h : EnableQuiet s) (hturn : Turn s t) :
    EnableQuiet t := by
  cases hturn with
  | controller rs b => exact h.congr_env _ s.inbox s.answers s.delays s.closes
  | reset landed => exact enableQuiet_of_idle rfl nofun
  | stands _ => exact h
  | turnedAway idle r => exact enableQuiet_of_idle rfl fun h0 => (h h0).1 idle
  | begins idle w i hw ha => exact enableQuiet_goOn_begun hm h idle hw ha
  | goesOn busy i hw hc =>
    obtain ⟨hk, -, hready⟩ := hinv.flight_of busy hw
    have hclose : i = .close → s.upc = 0 := fun hi => (hready (hi ▸ rfl)).2.2 hi
    exact enableQuiet_goOn_request hm hw busy hk.le hclose fun h0 => h.quiet h0 busy hw hc
  | closes busy i hw hi hc => exact enableQuiet_closeInit hw hi busy

/-- Settles O52: every turn keeps the line quiet, under masks that keep enable apart from the other bits. -/
theorem enableQuietKept : Obligations.EnableQuietKept := by
  unfold Obligations.EnableQuietKept
  intro s t hinv h hstep
  obtain ⟨hwf, l, a, d, c, hturn⟩ := step_turn hstep
  have hm : s.params.masksWf = true := by
    simp only [Params.wf, Bool.and_eq_true] at hwf
    exact hwf.1.1
  exact hturn.enableQuiet (s := s.supplied l a d c) hm (hinv.supplied l a d c) (h.congr_env s.lcd l a d c)

end Sys2Proof.Machine
end

section
/-! PROOFS. Decoding and encoding undo each other (30_encoding.md section 1). A decoder reads a code's fields, and a legal word is
packed from its own (`packWord_eq_of_fields`), so each format needs one fact about its fields: that its reserved ones are 0. -/

namespace Sys2Proof

/-! Decode undoes encode: the formats with operands read every operand back from the field it was packed in (30_encoding.md R101,
R102). -/

theorem decodeRequest_init (cols rows : Byte) (font : Nibble) (bl0 : Bool) :
    decodeRequest (packWord 0x01 cols rows (font ++ (0#3 ++ BitVec.ofBool bl0)) 0) = .ok (.init cols rows font bl0) := by
  have hc : ∀ (n : Nibble) (b : Bool), (n ++ (0#3 ++ BitVec.ofBool b) : Byte).extractLsb' 1 3 = 0 ∧
      (n ++ (0#3 ++ BitVec.ofBool b) : Byte).extractLsb' 4 4 = n ∧
      (n ++ (0#3 ++ BitVec.ofBool b) : Byte).getLsbD 0 = b := by decide
  obtain ⟨hzero, hfont, hbl⟩ := hc font bl0
  simp only [decodeRequest, reservedI, packWord_op, packWord_a, packWord_b, packWord_c, packWord_p, hzero, hfont, hbl]
  rfl

theorem decodeRequest_setCursor (row col : Byte) : decodeRequest (packWord 0x12 row col 0 0) = .ok (.setCursor row col) := by
  simp only [decodeRequest, reservedRC, packWord_op, packWord_a, packWord_b, packWord_c, packWord_p]
  rfl

theorem decodeRequest_writeRaw (code : Byte) : decodeRequest (packWord 0x13 0 0 code 0) = .ok (.writeRaw code) := by
  simp only [decodeRequest, reservedK, packWord_op, packWord_a, packWord_b, packWord_c, packWord_p]
  rfl

theorem decodeRequest_uploadCustomChar (loc : Byte) {pattern : List Byte} (h : pattern.length = 8) :
    decodeRequest (packWord 0x14 loc 0 0 (packPattern pattern)) = .ok (.uploadCustomChar loc pattern) := by
  obtain ⟨b0, b1, b2, b3, b4, b5, b6, b7, rfl⟩ : ∃ b0 b1 b2 b3 b4 b5 b6 b7, pattern = [b0, b1, b2, b3, b4, b5, b6, b7] := by
    match pattern, h with
    | [b0, b1, b2, b3, b4, b5, b6, b7], _ => exact ⟨b0, b1, b2, b3, b4, b5, b6, b7, rfl⟩
  simp only [decodeRequest, reservedU, packWord_op, packWord_a, packWord_b, packWord_c, packWord_p, patternBytes_packPattern]
  rfl

/-- Settles O1, by the instruction's format: a request with operands by the lemma about its fields, a request without (format
`N`) is one closed word, and a command has at most seven bits of operands. -/
theorem decodeOfEncode : Obligations.DecodeOfEncode := by
  unfold Obligations.DecodeOfEncode
  intro i hwf
  cases i
  case init cols rows font bl0 => exact decodeRequest_init cols rows font bl0
  case setCursor row col => exact decodeRequest_setCursor row col
  case writeRaw code => exact decodeRequest_writeRaw code
  case uploadCustomChar loc pattern => exact decodeRequest_uploadCustomChar loc (beq_iff_eq.1 hwf)
  case lcdHome ignored => revert ignored; decide
  case lcdEntryMode increment shift => revert increment shift; decide
  case lcdDisplayControl display cursor blink => revert display cursor blink; decide
  case lcdShift unused => revert unused; decide
  case lcdFunctionSet eightBit twoLine font5x10 ignored => revert eightBit twoLine font5x10 ignored; decide
  case lcdSetCgramAddr glyph glyphRow => revert glyph glyphRow; decide
  case lcdSetDdramAddr address => revert address; decide
  all_goals rfl

/-! Encode undoes decode: a word whose reserved fields are 0 is packed from its opcode and its operands, format by format
(30_encoding.md R101). -/

theorem packWord_eq_of_fields {w : Word} {op a b c : Byte} {p : BitVec 64} (hop : Word.op w = op) (ha : Word.a w = a)
    (hb : Word.b w = b) (hc : Word.c w = c) (hp : Word.p w = p) : packWord op a b c p = w := by
  rw [← hop, ← ha, ← hb, ← hc, ← hp, packWord_fields]

variable {w : Word}

theorem packN_of_reserved {op : Byte} (hop : Word.op w = op) (h : reservedN w = true) : packN op = w := by
  simp only [reservedN, Bool.and_eq_true, beq_iff_eq] at h
  obtain ⟨⟨⟨ha, hb⟩, hc⟩, hp⟩ := h
  exact packWord_eq_of_fields hop ha hb hc hp

theorem encode_init_of_reserved (hop : Word.op w = 0x01) (h : reservedI w = true) :
    encode (.init (Word.a w) (Word.b w) ((Word.c w).extractLsb' 4 4) ((Word.c w).getLsbD 0)) = .request w := by
  simp only [reservedI, Bool.and_eq_true, beq_iff_eq] at h
  obtain ⟨hc, hp⟩ := h
  have hbyte : ∀ c : Byte, c.extractLsb' 1 3 = 0 →
      c = c.extractLsb' 4 4 ++ (0#3 ++ BitVec.ofBool (c.getLsbD 0)) := by decide
  exact congrArg Code.request (packWord_eq_of_fields hop rfl rfl (hbyte _ hc) hp)

theorem encode_setCursor_of_reserved (hop : Word.op w = 0x12) (h : reservedRC w = true) :
    encode (.setCursor (Word.a w) (Word.b w)) = .request w := by
  simp only [reservedRC, Bool.and_eq_true, beq_iff_eq] at h
  exact congrArg Code.request (packWord_eq_of_fields hop rfl rfl h.1 h.2)

theorem encode_writeRaw_of_reserved (hop : Word.op w = 0x13) (h : reservedK w = true) :
    encode (.writeRaw (Word.c w)) = .request w := by
  simp only [reservedK, Bool.and_eq_true, beq_iff_eq] at h
  obtain ⟨⟨ha, hb⟩, hp⟩ := h
  exact congrArg Code.request (packWord_eq_of_fields hop ha hb rfl hp)

theorem encode_uploadCustomChar_of_reserved (hop : Word.op w = 0x14) (h : reservedU w = true) :
    encode (.uploadCustomChar (Word.a w) (patternBytes (Word.p w))) = .request w := by
  simp only [reservedU, Bool.and_eq_true, beq_iff_eq] at h
  exact congrArg Code.request (packWord_eq_of_fields hop rfl h.1 h.2 (packPattern_patternBytes _).symm)

theorem ifReserved_eq_ok_iff {zero : Bool} {i j : Instr} : ifReserved zero j = .ok i ↔ zero = true ∧ j = i := by
  cases zero <;> simp [ifReserved]

/-- A request word that decodes is the encoding of its operation, which is well-formed: a row of R105 names its opcode, and the
row's format packs the word. -/
theorem encode_of_decodeRequest {i : Instr} (h : decodeRequest w = .ok i) : i.wf = true ∧ encode i = .request w := by
  unfold decodeRequest at h
  split at h
  case h_20 => cases h
  all_goals
    rename_i hop
    obtain ⟨hres, rfl⟩ := ifReserved_eq_ok_iff.1 h
    refine ⟨rfl, ?_⟩
  case h_1 => exact encode_init_of_reserved (BitVec.eq_of_toNat_eq hop) hres
  case h_5 => exact encode_setCursor_of_reserved (BitVec.eq_of_toNat_eq hop) hres
  case h_6 => exact encode_writeRaw_of_reserved (BitVec.eq_of_toNat_eq hop) hres
  case h_7 => exact encode_uploadCustomChar_of_reserved (BitVec.eq_of_toNat_eq hop) hres
  all_goals exact congrArg Code.request (packN_of_reserved (BitVec.eq_of_toNat_eq hop) hres)

/-- A command byte that decodes is the encoding of its command: checked of all 256 (30_encoding.md R120). -/
theorem encode_of_decodeCommand {b : Byte} {i : Instr} (h : decodeCommand b = .ok i) : i.wf = true ∧ encode i = .command b := by
  have hall : ∀ b, (decodeCommand b).toOption.all (fun i => i.wf && encode i == .command b) = true := by decide
  simpa [h, Except.toOption] using hall b

/-- Settles O2, by the kind of code. -/
theorem encodeOfDecode : Obligations.EncodeOfDecode := by
  unfold Obligations.EncodeOfDecode
  intro c i h
  cases c with
  | request w =>
    obtain ⟨hwf, henc⟩ := encode_of_decodeRequest h
    exact ⟨hwf, henc, Machine.isRequest_of_decodeRequest h⟩
  | command b =>
    obtain ⟨hwf, henc⟩ := encode_of_decodeCommand h
    exact ⟨hwf, henc, Machine.not_isRequest_of_decodeCommand h⟩

/-! The rows of the opcode table. -/

/-- The encoding of every instruction matches the table. -/
theorem encode_matchesRow : ∀ i, Laws.MatchesRow.Statement i
  | .init .. => Laws.MatchesRow.init ..
  | .close => Laws.MatchesRow.close
  | .clear => Laws.MatchesRow.clear
  | .home => Laws.MatchesRow.home
  | .setCursor .. => Laws.MatchesRow.setCursor ..
  | .writeRaw .. => Laws.MatchesRow.writeRaw ..
  | .uploadCustomChar .. => Laws.MatchesRow.uploadCustomChar ..
  | .backlightOn => Laws.MatchesRow.backlightOn
  | .backlightOff => Laws.MatchesRow.backlightOff
  | .backlightToggle => Laws.MatchesRow.backlightToggle
  | .displayOn => Laws.MatchesRow.displayOn
  | .displayOff => Laws.MatchesRow.displayOff
  | .displayToggle => Laws.MatchesRow.displayToggle
  | .cursorOn => Laws.MatchesRow.cursorOn
  | .cursorOff => Laws.MatchesRow.cursorOff
  | .cursorToggle => Laws.MatchesRow.cursorToggle
  | .blinkOn => Laws.MatchesRow.blinkOn
  | .blinkOff => Laws.MatchesRow.blinkOff
  | .blinkToggle => Laws.MatchesRow.blinkToggle
  | .lcdClear => Laws.MatchesRow.lcdClear
  | .lcdHome .. => Laws.MatchesRow.lcdHome _
  | .lcdEntryMode .. => Laws.MatchesRow.lcdEntryMode _ _
  | .lcdDisplayControl .. => Laws.MatchesRow.lcdDisplayControl _ _ _
  | .lcdShift .. => Laws.MatchesRow.lcdShift _
  | .lcdFunctionSet .. => Laws.MatchesRow.lcdFunctionSet _ _ _ _
  | .lcdSetCgramAddr .. => Laws.MatchesRow.lcdSetCgramAddr _ _
  | .lcdSetDdramAddr .. => Laws.MatchesRow.lcdSetDdramAddr _

theorem row_of_decodeRequest {i : Instr} (h : decodeRequest w = .ok i) : ∃ r ∈ requestRows, r.takes w = true := by
  have hrow := encode_matchesRow i
  rw [Laws.MatchesRow.Statement, (encode_of_decodeRequest h).2] at hrow
  exact hrow

theorem decodeRequest_of_encode {i : Instr} (hwf : i.wf = true) (h : encode i = .request w) : decodeRequest w = .ok i := by
  have hdec := decodeOfEncode i hwf
  rwa [h] at hdec

/-- The 15 rows without operands compare all 96 bits; the other four stand for INIT, SET_CURSOR, WRITE_RAW and
UPLOAD_CUSTOM_CHAR. -/
theorem requestRows_cases : ∀ r ∈ requestRows,
    (r.mask = BitVec.allOnes 96 ∧ (decodeRequest r.value).toOption.isSome = true) ∨
    (r.value, r.mask) = (packN 0x01, packWord 0xFF 0 0 0x0E 0xFFFFFFFFFFFFFFFF) ∨
    (r.value, r.mask) = (packN 0x12, packWord 0xFF 0 0 0xFF 0xFFFFFFFFFFFFFFFF) ∨
    (r.value, r.mask) = (packN 0x13, packWord 0xFF 0xFF 0xFF 0 0xFFFFFFFFFFFFFFFF) ∨
    (r.value, r.mask) = (packN 0x14, packWord 0xFF 0 0xFF 0xFF 0) := by
  decide

/-- A row takes a word under a packed mask field by field. -/
theorem takes_packed {r : Row} {op mop ma mb mc : Byte} {mp : BitVec 64}
    (hrow : (r.value, r.mask) = (packN op, packWord mop ma mb mc mp)) (h : r.takes w = true) :
    Word.op w &&& mop = op ∧ Word.a w &&& ma = 0 ∧ Word.b w &&& mb = 0 ∧ Word.c w &&& mc = 0 ∧
    Word.p w &&& mp = 0 := by
  obtain ⟨hvalue, hmask⟩ := Prod.mk.inj hrow
  simpa only [takes_iff, hvalue, hmask, packN, packWord_op, packWord_a, packWord_b, packWord_c, packWord_p] using h

theorem and_ones8 (b : Byte) : b &&& 0xFF = b := BitVec.and_allOnes

theorem decodeRequest_of_takes {r : Row} (hr : r ∈ requestRows) (h : r.takes w = true) : ∃ i, decodeRequest w = .ok i := by
  obtain ⟨hmask, hdec⟩ | hrow | hrow | hrow | hrow := requestRows_cases r hr
  · have hw : w = r.value := by simpa only [Row.takes, hmask, BitVec.and_allOnes, beq_iff_eq] using h
    rw [hw]
    cases hres : decodeRequest r.value with
    | ok i => exact ⟨i, rfl⟩
    | error e => rw [hres] at hdec; cases hdec
  all_goals
    obtain ⟨hop, ha, hb, hc, hp⟩ := takes_packed hrow h
    simp only [and_ones8, and_ones64] at hop ha hb hc hp
  · have hbits : ∀ c : Byte, c &&& 0x0E = 0 → c.extractLsb' 1 3 = 0 := by decide
    exact ⟨_, decodeRequest_of_encode rfl (encode_init_of_reserved hop (by simp [reservedI, hbits _ hc, hp]))⟩
  · exact ⟨_, decodeRequest_of_encode rfl (encode_setCursor_of_reserved hop (by simp [reservedRC, hc, hp]))⟩
  · exact ⟨_, decodeRequest_of_encode rfl (encode_writeRaw_of_reserved hop (by simp [reservedK, ha, hb, hp]))⟩
  · exact ⟨_, decodeRequest_of_encode rfl (encode_uploadCustomChar_of_reserved hop (by simp [reservedU, hb, hc]))⟩

/-- Every row's mask covers the opcode. -/
theorem op_of_takes {r : Row} (hr : r ∈ requestRows) (h : r.takes w = true) : Word.op r.value = Word.op w := by
  have hmask : ∀ r ∈ requestRows, Word.op r.mask = 0xFF := by decide
  obtain ⟨hop, -⟩ := (takes_iff r w).1 h
  rw [← hop, hmask r hr, and_ones8]

/-- Settles O3: the rows that take a word have its opcode, and no two rows have the same one. -/
theorem legalWords : Obligations.LegalWords := by
  unfold Obligations.LegalWords
  intro w
  refine ⟨⟨fun ⟨_, h⟩ => row_of_decodeRequest h, fun ⟨_, hr, h⟩ => decodeRequest_of_takes hr h⟩, ?_⟩
  have hdistinct : (requestRows.map fun r => Word.op r.value).Nodup := by decide
  calc (requestRows.filter fun r => r.takes w).length
      = requestRows.countP fun r => r.takes w := List.countP_eq_length_filter.symm
    _ ≤ requestRows.countP fun r => Word.op r.value == Word.op w :=
        List.countP_mono_left fun r hr h => beq_iff_eq.2 (op_of_takes hr h)
    _ = (requestRows.map fun r => Word.op r.value).count (Word.op w) := by
        rw [List.count, List.countP_map]; rfl
    _ ≤ 1 := List.nodup_iff_count_le_one.1 hdistinct _

/-- Settles O4: the group's sixteen words, one by one. -/
theorem toggleGroup : Obligations.ToggleGroup := by
  unfold Obligations.ToggleGroup
  decide

/-- Settles O5: all 256 bytes, one by one. -/
theorem commandByHighestBit : Obligations.CommandByHighestBit := by
  unfold Obligations.CommandByHighestBit
  decide

end Sys2Proof
end

section
/-! PROOFS. The controller's side of 30_encoding.md: the turn in which it executes a latched byte, the eight commands, and the
command bytes the block emits. -/

namespace Sys2Proof.Machine

theorem step_of_latched {s : State} {rs : Bool} {b : Byte} (hwf : s.params.wf = true) (h : s.lcd.ir = some (rs, b)) :
    step s = controllerTurn rs b s := by
  simp [step, hwf, h]

/-- Settles O8: the turn of a controller with a byte in its latch, by what the byte is. -/
theorem stepRunsCommand : Obligations.StepRunsCommand := by
  unfold Obligations.StepRunsCommand
  intro s b hwf
  refine ⟨fun i hir hdec => ?_, fun hir hnone => ?_, fun hir => step_of_latched hwf hir⟩
  · simp [step_of_latched hwf hir, controllerTurn, hdec]
  · cases hdec : decodeCommand b with
    | ok i => exact absurd hdec (hnone i)
    | error e => simp [step_of_latched hwf hir, controllerTurn, hdec]

/-- Settles O48: `exec_command`, with the bits of the display-control field and the number of the CGRAM address. -/
theorem lcdRegisterCommands : Obligations.LcdRegisterCommands := by
  unfold Obligations.LcdRegisterCommands
  intro s
  refine ⟨fun increment shift => exec_command s rfl, fun display cursor blink => ⟨_, exec_command s rfl, ?_⟩,
    fun eightBit twoLine font5x10 ignored => exec_command s rfl, fun glyph glyphRow => ⟨_, exec_command s rfl, ?_⟩,
    fun address => exec_command s rfl⟩
  · revert display cursor blink; decide
  · rw [toNat_append_add, Nat.mul_comm]; rfl

theorem Lcd.ddramAt_clear (l : Lcd) (a : BitVec 7) : l.clear.ddramAt a = .emptied := rfl

/-- Settles O49: `exec_command`, and that a cleared location is emptied. -/
theorem lcdMovingCommands : Obligations.LcdMovingCommands := by
  unfold Obligations.LcdMovingCommands
  intro s
  exact ⟨⟨s.lcd.clear, exec_command s rfl, s.lcd.ddramAt_clear, rfl⟩, fun ignored => ⟨_, _, exec_command s rfl⟩,
    fun unused => ⟨_, _, _, exec_command s rfl⟩⟩

/-! The command bytes (30_encoding.md R110 to R117). -/

/-- The rows with their first DDRAM addresses (20_memory.md R71). -/
def rowTable : List (Byte × Nat) := [(0, 0x00), (1, 0x40), (2, 0x14), (3, 0x54)]

/-- Two rows begin at least twenty addresses apart. -/
theorem rowTable_apart : ∀ x ∈ rowTable, ∀ y ∈ rowTable, x = y ∨ x.2 + 20 ≤ y.2 ∨ y.2 + 20 ≤ x.2 := by decide

/-- Different screen positions have different addresses (42_screen_cursor.md R216). -/
theorem screenAddr_inj {x y : Byte × Nat} (hx : x ∈ rowTable) (hy : y ∈ rowTable) {col col' : Byte} (hc : col < 20)
    (hc' : col' < 20) (h : screenAddr x.1 col = screenAddr y.1 col') : x = y ∧ col = col' := by
  have hnat := congrArg BitVec.toNat h
  rw [screenAddr_toNat x hx col hc, screenAddr_toNat y hy col' hc'] at hnat
  obtain rfl | hapart := rowTable_apart x hx y hy
  · exact ⟨rfl, BitVec.eq_of_toNat_eq (Nat.add_left_cancel hnat)⟩
  · have : col.toNat < 20 := hc
    have : col'.toNat < 20 := hc'
    omega

/-- Settles O38: the fixed bytes and the set-address bytes by evaluation, the eighty addresses by `screenAddr_inj`. -/
theorem commandBytes : Obligations.CommandBytes := by
  unfold Obligations.CommandBytes
  refine ⟨rfl, rfl, by decide, rfl, rfl, rfl, rfl, rfl, by decide, by decide, ?_⟩
  intro row hrow row' hrow' col col' hc hc' h
  have hrows : ∀ row ∈ [(0 : Byte), 1, 2, 3], ∃ x ∈ rowTable, x.1 = row := by decide
  have hwide : ∀ col : BitVec 5, col < 20 → col.setWidth 8 < (20 : Byte) := by decide
  obtain ⟨x, hx, rfl⟩ := hrows row hrow
  obtain ⟨y, hy, rfl⟩ := hrows row' hrow'
  obtain ⟨rfl, hcol⟩ := screenAddr_inj hx hy (hwide col hc) (hwide col' hc') h
  exact ⟨rfl, by bv_omega⟩

end Sys2Proof.Machine
end

section
/-! PROOFS. Which words an opcode has (30_encoding.md R105, R107): every other word of it is turned away as illegal. -/

namespace Sys2Proof.Machine

theorem accept_illegal {w : Word} (s : State) (h : ∀ i, decodeRequest w ≠ .ok i) :
    accept w s = .next (turnedAway .illegalRequest s) := by
  unfold accept
  cases hw : decodeRequest w with
  | ok i => exact absurd hw (h i)
  | error e => rfl

theorem noOtherWord_of_decode {op : Byte} {legal : Word → Prop}
    (h : ∀ w i, Word.op w = op → decodeRequest w = .ok i → legal w) : NoOtherWord op legal :=
  fun w s hop hno => accept_illegal s fun i hi => hno (h w i hop hi)

/-- An opcode that stands for one operation without operands has one word, its encoding. -/
theorem oneWord_of_encode {op : Byte} {w : Word} {i : Instr} (hwf : i.wf = true) (henc : encode i = .request w)
    (honly : ∀ v j, Word.op v = op → decodeRequest v = .ok j → j = i) : OneWord op w i := by
  have hword : ∀ v, decodeRequest v = .ok i → v = w := fun v h =>
    Code.request.inj ((encode_of_decodeRequest h).2.symm.trans henc)
  refine ⟨fun v => ⟨hword v, ?_⟩, noOtherWord_of_decode fun v j hop h => hword v (honly v j hop h ▸ h)⟩
  rintro rfl
  exact decodeRequest_of_encode hwf henc

/-- CLOSE's one word (40_lifecycle_init.md R160). -/
theorem oneWord_close : OneWord 0x02 0x020000000000000000000000 .close :=
  oneWord_of_encode rfl rfl fun v j hop h => by
    simp only [decodeRequest, hop] at h
    exact (ifReserved_eq_ok h).symm

/-- Settles O6: fourteen closed words and bytes, each decoded by evaluation. -/
theorem workedWordsDecode : Obligations.WorkedWordsDecode := by
  unfold Obligations.WorkedWordsDecode
  decide

end Sys2Proof.Machine
end

section
/-! PROOFS. INIT (40_lifecycle_init.md R150 to R158): which operands it admits, the list it then runs, and how that list ends when
every request is answered `ok` and when one is answered `err`. -/

namespace Sys2Proof.Machine

/-! Validation. -/

theorem initValid_iff (cols rows : Byte) (font : Nibble) : initValid cols rows font = true ↔ ValidSetup cols rows font := by
  simp only [initValid, Config.colsSet, Config.rowsSet, List.contains_cons, List.contains_nil, Bool.or_false,
    Bool.and_eq_true, Bool.or_eq_true, beq_iff_eq, Bool.not_eq_true', Bool.and_eq_false_iff, beq_eq_false_iff_ne,
    bne_eq_false_iff_eq]
  constructor
  · rintro ⟨⟨⟨hc, hr⟩, hf⟩, hfr⟩
    refine ⟨hc, ?_⟩
    obtain rfl | hr := hr
    · exact .inl ⟨rfl, hf⟩
    · obtain rfl | rfl := hf
      · exact .inr ⟨hr, rfl⟩
      · obtain rfl := hfr.resolve_left (· rfl)
        exact .inl ⟨rfl, .inr rfl⟩
  · rintro ⟨hc, ⟨rfl, hf⟩ | ⟨hr, rfl⟩⟩
    · exact ⟨⟨⟨hc, .inl rfl⟩, hf⟩, .inr rfl⟩
    · exact ⟨⟨⟨hc, .inr hr⟩, .inl rfl⟩, .inl (by decide)⟩

variable {s : State} {cols rows : Byte} {font : Nibble} {bl0 : Bool}

theorem ValidSetup.rows_ne_zero (h : ValidSetup cols rows font) : rows ≠ 0 := by
  obtain ⟨-, ⟨rfl, -⟩ | ⟨rfl | rfl, -⟩⟩ := h <;> decide

theorem ValidSetup.font_bit (h : ValidSetup cols rows font) : font.getLsbD 0 = (font == 1) := by
  obtain ⟨-, ⟨-, rfl | rfl⟩ | ⟨-, rfl⟩⟩ := h <;> rfl

/-- A valid INIT writes the state and runs its list (40_lifecycle_init.md R152, R153). -/
theorem exec_init_valid (hf : s.fsm = .uninitialized ∨ s.fsm = .closed) (hv : ValidSetup cols rows font) :
    exec (.init cols rows font bl0) s = .next (run abortInit
      (initActions (initWrites cols rows font bl0 (start s))) (initWrites cols rows font bl0 (start s))) := by
  simp only [exec, execInit, if_pos hf, if_pos ((initValid_iff cols rows font).2 hv)]

/-- An invalid one does nothing (40_lifecycle_init.md R151). -/
theorem exec_init_invalid (hf : s.fsm = .uninitialized ∨ s.fsm = .closed) (hv : ¬ ValidSetup cols rows font) :
    exec (.init cols rows font bl0) s = .next (turnedAway .invalidArgument s) := by
  simp only [exec, execInit, if_pos hf, if_neg (fun h => hv ((initValid_iff cols rows font).1 h))]
  rfl

/-- Settles O17: each of the four faults of the operands contradicts `ValidSetup`. -/
theorem initInvalidArgument : Obligations.InitInvalidArgument := by
  unfold Obligations.InitInvalidArgument
  intro s cols rows font bl0 hf hbad
  refine exec_init_invalid hf ?_
  rintro ⟨hc, hrf⟩
  rcases hbad with ⟨h16, h20⟩ | ⟨h1, h2, h4⟩ | ⟨h0, h1⟩ | ⟨hfont, hr⟩
  · exact hc.elim h16 h20
  · exact hrf.elim (fun h => h1 h.1) (fun h => h.1.elim h2 h4)
  · exact hrf.elim (fun h => h.2.elim h0 h1) (fun h => h0 h.2)
  · exact hrf.elim (fun h => hr h.1) (fun h => by rw [hfont] at h; cases h.2)

/-! The list. -/

theorem okEvents_writeNibble (p : Params) (bl : Bool) (n : Nibble) (rs : Bool) :
    okEvents (writeNibble p bl n rs) = nibbleTrace p bl (n.setWidth 8 <<< 4) rs := by
  simp [okEvents, writeNibble, okEvent, nibbleTrace, xbyte, ctl]

/-- INIT's list leaves the events R153 lists. -/
theorem okEvents_initActions (s : State) (hr : s.rows ≠ 0) :
    okEvents (initActions s) = initTrace s.params s.rows s.font s.bl := by
  have hrows : (1 < s.rows) ↔ ¬ s.rows = 1 := by bv_omega
  have hfuncset : cbFuncset s.params s.rows s.font = s.params.cmdFuncset ||| s.params.fs4bit |||
      (if s.rows = 1 then s.params.fs1line else s.params.fs2line) ||| (if s.font then s.params.fs5x10 else s.params.fs5x8) := by
    simp only [cbFuncset, hrows, ite_not]
  have hdispctl : cbDispctl s.params 0b100 = s.params.cmdDispctl ||| s.params.dcDisplay := by simp [cbDispctl]
  simp only [initActions, okEvents_append, okEvents_writeNibble, okEvents_send, hfuncset, hdispctl]
  rfl

theorem okEvents_init (hv : ValidSetup cols rows font) :
    okEvents (initActions (initWrites cols rows font bl0 (start s))) = initTrace s.params rows (font == 1) bl0 := by
  rw [← hv.font_bit]
  exact okEvents_initActions (initWrites cols rows font bl0 (start s)) hv.rows_ne_zero

/-- The last byte of the handshake is the low half of the clear command, with enable low. -/
theorem out_initTrace (p : Params) (rows : Byte) (font bl0 : Bool) (b : Byte) :
    (writesOf (initTrace p rows font bl0)).getLastD b = (if bl0 then p.blMask else 0) ||| (p.cmdClear <<< 4) := by
  simp only [initTrace, writesOf_append, getLastD_append]
  simp [writesOf, sendTrace, nibbleTrace]

theorem openAfter_of_inSession {l : List Action} (h : l.all Action.inSession = true) : openAfter l true = true := by
  induction l with
  | nil => rfl
  | cons a l ih =>
    simp only [List.all_cons, Bool.and_eq_true] at h
    cases a with
    | tClose => cases h.1
    | tOpen | tWrite _ | wait _ | setFsm _ => exact ih h.2

/-- However the transport stood before, INIT's list leaves it open. -/
theorem openAfter_initActions (s : State) (b : Bool) : openAfter (initActions s) b = true := by
  obtain ⟨v, l, hlist⟩ := initActions_head s
  obtain ⟨-, -, -, hsess⟩ := initActions_needs s
  rw [hlist] at hsess ⊢
  exact openAfter_of_inSession (l := _ :: _ :: _ :: l) hsess

theorem fsmAfter_initActions (s : State) : fsmAfter (initActions s) .uninitialized = .ready := by
  obtain ⟨-, -, hlen, -⟩ := initActions_needs s
  obtain ⟨hend, -⟩ := lifecycle_initActions_end s
  rwa [List.take_of_length_le hlen.le] at hend

/-- Settles O16: the list runs to its end, and `Ran` says what that leaves. -/
theorem initCompletes : Obligations.InitCompletes := by
  unfold Obligations.InitCompletes
  intro s cols rows font bl0 rest d hf hv ⟨ha, hd⟩
  obtain ⟨hasks, hwaits, -, hsess⟩ := initActions_needs (initWrites cols rows font bl0 (start s))
  obtain ⟨t, hrun, hans, hdelays, h⟩ :=
    run_ok abortInit _ (initWrites cols rows font bl0 (start s)) rest d hsess (hasks ▸ ha) (hwaits ▸ hd)
  obtain ⟨hcols, hrows, hfont, hbl, hdc, hdraws⟩ := h.mirror
  have htrace := h.trace
  have hout := h.out
  rw [okEvents_init hv] at htrace hout
  rw [out_initTrace] at hout
  exact ⟨respond .ok t, (exec_init_valid hf hv).trans (congrArg _ hrun),
    ⟨congrArg (· ++ [Response.ok]) h.responses, rfl, rfl, rfl⟩,
    hans, hdelays, htrace, h.fsm.trans (fsmAfter_initActions _), h.tOpen.trans (openAfter_initActions _ _), h.ioFault,
    hcols, hrows, hfont.trans hv.font_bit, hbl, hdc, h.params, h.inbox, congrArg (· + 1) hdraws, hout⟩

/-! The abort. Completed or not, the TClose leaves all this as it was. -/
@[simp] theorem closeInit_params (s : State) : (closeInit s).params = s.params := by unfold closeInit; split <;> rfl
@[simp] theorem closeInit_inbox (s : State) : (closeInit s).inbox = s.inbox := by unfold closeInit; split <;> rfl
@[simp] theorem closeInit_answers (s : State) : (closeInit s).answers = s.answers := by unfold closeInit; split <;> rfl
@[simp] theorem closeInit_delays (s : State) : (closeInit s).delays = s.delays := by unfold closeInit; split <;> rfl
@[simp] theorem closeInit_out (s : State) : (closeInit s).out = s.out := by unfold closeInit; split <;> rfl

/-- INIT writes nothing before its fourth action. -/
theorem initActions_before_write {pre post : List Action} {v : Byte} (h : initActions s = pre ++ .tWrite v :: post) :
    ∃ pre', pre = .tOpen :: .wait .powerOn :: .setFsm .eightBitBoot :: pre' := by
  obtain ⟨w, l, hlist⟩ := initActions_head s
  rw [hlist] at h
  match pre, h with
  | _ :: _ :: _ :: pre', h =>
    simp only [List.cons_append, List.cons.injEq] at h
    obtain ⟨rfl, rfl, rfl, -⟩ := h
    exact ⟨pre', rfl⟩

theorem handshakeFsm_hasHandle {k : Nat} (h : 2 < k) : (handshakeFsm k).hasHandle = true := by
  unfold handshakeFsm
  rw [if_neg (Nat.not_le.2 h)]
  split
  · rfl
  · split <;> rfl

/-- At each of its writes INIT has a handle, with the transport open (40_lifecycle_init.md R154, 10_state.md R42). -/
theorem lifecycle_before_write {pre post : List Action} {v : Byte} (h : initActions s = pre ++ .tWrite v :: post) (b : Bool) :
    pre ≠ [] ∧ (fsmAfter pre .uninitialized).hasHandle = true ∧ openAfter pre b = true := by
  obtain ⟨-, -, hlen, hsess⟩ := initActions_needs s
  have htake : (initActions s).take pre.length = pre := by rw [h, List.take_left]
  rw [h] at hlen hsess
  simp only [List.length_append, List.length_cons] at hlen
  rw [List.all_append, Bool.and_eq_true] at hsess
  obtain ⟨hfsm, -⟩ := lifecycle_initActions s (k := pre.length) (by omega)
  rw [htake] at hfsm
  obtain ⟨pre', rfl⟩ := initActions_before_write h
  refine ⟨List.cons_ne_nil _ _, ?_, openAfter_of_inSession (l := _ :: _ :: _ :: pre') hsess.1⟩
  rw [hfsm]
  exact handshakeFsm_hasHandle (by simp)

/-- The open of INIT answered `err`: nothing follows (40_lifecycle_init.md R156). -/
theorem run_init_open_err {reached : Bool} {rest : List Answer} (ha : s.answers = .err reached :: rest) (hk : s.upc = 0) :
    run abortInit (initActions s) s = failInit { s with answers := rest, trace := s.trace ++ [.evOpen .err] } := by
  obtain ⟨v, l, hlist⟩ := initActions_head s
  rw [hlist, run_tOpen_err _ _ _ _ _ ha]
  exact abortInit_open _ hk

/-- A write of INIT answered `err`: its abort stands at the TClose (40_lifecycle_init.md R156). -/
theorem run_init_write_err {pre post : List Action} {v : Byte} {reached : Bool} {rest : List Answer} {d : Nat}
    (hlist : initActions s = pre ++ .tWrite v :: post)
    (ha : s.answers = List.replicate (asksOf pre) .ok ++ .err reached :: rest) (hd : s.delays = waitsNeeded pre + d) :
    ∃ t, run abortInit (initActions s) s =
        closeInit (driveFailed v reached { t with answers := rest, trace := t.trace ++ [.evWrite v .err] }) ∧
      t.delays = d ∧ Ran pre s t := by
  obtain ⟨-, -, -, hsess⟩ := initActions_needs s
  obtain ⟨hne, -⟩ := lifecycle_before_write hlist false
  rw [hlist, List.all_append, Bool.and_eq_true] at hsess
  obtain ⟨t, hrun, hdelays, h⟩ := run_cut abortInit pre post v s rest d reached hsess.1 ha hd
  have hupc : t.upc ≠ 0 := by
    have := List.length_pos_iff.2 hne
    have := h.upc
    omega
  refine ⟨t, ?_, hdelays, h⟩
  rw [hlist, hrun, abortInit_write _ (by simpa using hupc)]

/-- Settles O18: the open fails first of all, and a failed write leaves the transport open for the abort's TClose, which the
transport completes or not. -/
theorem initAborts : Obligations.InitAborts := by
  unfold Obligations.InitAborts
  intro s cols rows font bl0 hf hv
  constructor
  · intro reached rest ha
    have hrun := run_init_open_err (s := initWrites cols rows font bl0 (start s)) ha rfl
    exact ⟨_, (exec_init_valid hf hv).trans (congrArg _ hrun), ⟨rfl, rfl, rfl, rfl⟩, rfl, rfl, rfl, rfl, rfl, rfl, rfl,
      rfl, rfl, ⟨rfl, rfl⟩⟩
  · intro before v after reached rest d htrace ha hd
    rw [← okEvents_init (s := s) hv] at htrace
    obtain ⟨pre, post, hlist, rfl, -⟩ := okEvents_split _ before v after htrace
    rw [asksIn_okEvents] at ha
    rw [waitsIn_okEvents] at hd
    obtain ⟨t, hrun, hdelays, h⟩ := run_init_write_err hlist ha hd
    obtain ⟨-, hhandle, hopen⟩ := lifecycle_before_write hlist s.tOpen
    refine ⟨_, (exec_init_valid hf hv).trans (congrArg _ hrun), by simp, by simp [hdelays], by simp [h.params],
      by simp [h.inbox], by simp [h.out], fun c hc => ?_, fun hc => ?_⟩
    · rw [closeInit_done _ c (by simp [h.closes, hc])]
      simp [Ended, h.responses, h.trace]
    · rw [closeInit_held _ (by simp [h.closes, hc])]
      simp [h.responses, h.trace, h.fsm, h.tOpen, hopen, hhandle, h.req, h.busy, h.ioFault, h.closes, hc]

end Sys2Proof.Machine
end

section
/-! PROOFS. CLOSE (40_lifecycle_init.md R160 to R162), and why the double close is the only fault: every other request is answered,
and an operation in flight has its word in the latch. -/

namespace Sys2Proof.Machine

/-! CLOSE, by the lifecycle state it meets. -/

variable {s : State}

theorem exec_close_ready (hf : s.fsm = .ready) : exec .close s = .next (goOn .close (start s)) := by
  simp only [exec, execClose, inReady, hf, if_true]
  rfl

theorem exec_close_notReady (hr : s.fsm ≠ .ready) (hc : s.fsm ≠ .closed) :
    exec .close s = .next (turnedAway .notReady s) := by
  simp only [exec, execClose, inReady, if_neg hr, if_neg hc]
  rfl

theorem exec_close_closed (hf : s.fsm = .closed) : exec .close s = .fault .doubleClose := if_pos hf

/-- Settles O21: the list from `Ready`, by whether the transport completes its TClose. -/
theorem closeCompletes : Obligations.CloseCompletes := by
  unfold Obligations.CloseCompletes
  refine ⟨oneWord_close, fun s c hf hc => ?_, fun s hf hc => ?_⟩
  · have hrun := goOn_close_done (s := start s) (n := c) rfl hc
    exact ⟨_, (exec_close_ready hf).trans (congrArg _ hrun), ⟨rfl, rfl, rfl, rfl⟩, rfl, rfl, rfl, rfl, ⟨rfl, rfl⟩, rfl, rfl,
      rfl, rfl, rfl⟩
  · have hrun := goOn_close_held (s := start s) rfl hc
    exact (exec_close_ready hf).trans (congrArg _ hrun)

/-- Settles O22: Uninitialized is neither `Ready` nor Closed. -/
theorem closeUninitialized : Obligations.CloseUninitialized := by
  unfold Obligations.CloseUninitialized
  intro s hf
  exact exec_close_notReady (by rw [hf]; decide) (by rw [hf]; decide)

/-! What an operation that runs is answered. -/

/-- From `s` to `t` no response is given, or `OK` or `IOError` is. -/
def Answered (s t : State) : Prop :=
  t.responses = s.responses ∨ ∃ r ∈ [Response.ok, .ioError], t.responses = s.responses ++ [r]

theorem closeInit_answered (s : State) : Answered s (closeInit s) := by
  unfold closeInit
  split
  · exact .inl rfl
  · exact .inr ⟨.ioError, by decide, rfl⟩

theorem abortInit_answered (s : State) : Answered s (abortInit s) := by
  unfold abortInit
  split
  · exact .inr ⟨.ioError, by decide, rfl⟩
  · exact closeInit_answered s

theorem run_answered {ab : State → State} (hab : ∀ s, Answered s (ab s)) (l : List Action) (s : State) :
    Answered s (run ab l s) := by
  induction l generalizing s with
  | nil => exact .inr ⟨.ok, by decide, rfl⟩
  | cons a l ih =>
    obtain ⟨-, -, hsame⟩ := execAction_adds a s
    unfold run
    cases h : execAction a s <;> rw [h] at hsame
    case completed u =>
      have hrest := ih { u with upc := u.upc + 1 }
      unfold Answered at hrest ⊢
      rwa [← hsame]
    case failed u =>
      have habort := hab u
      unfold Answered at habort ⊢
      rwa [← hsame]
    case waiting u => exact .inl hsame

/-- So it is not turned away. -/
theorem Answered.ne_turnedAway {t : State} (h : Answered s t) {r : Response} (hr : r ∉ [Response.ok, .ioError]) :
    t ≠ turnedAway r s := by
  rintro rfl
  obtain hsame | ⟨q, hq, hadd⟩ := h
  · simp [turnedAway] at hsame
  · simp only [turnedAway, List.append_cancel_left_eq, List.cons.injEq, and_true] at hadd
    exact hr (hadd ▸ hq)

/-- Settles O23: INIT from Closed runs, and is then answered `OK`, `IOError` or not yet, or answers `InvalidArgument`. -/
theorem doubleCloseFaults : Obligations.DoubleCloseFaults := by
  unfold Obligations.DoubleCloseFaults
  intro s hf
  refine ⟨exec_close_closed hf, fun cols rows font bl0 => ?_⟩
  by_cases hv : ValidSetup cols rows font
  · refine ⟨_, exec_init_valid (.inr hf) hv, Answered.ne_turnedAway ?_ (by decide)⟩
    exact run_answered abortInit_answered _ (initWrites cols rows font bl0 (start s))
  · refine ⟨_, exec_init_invalid (.inr hf) hv, fun h => ?_⟩
    simpa [turnedAway] using congrArg State.responses h

/-! The only fault. -/

/-- Every operation answers a next state but a CLOSE that meets Closed. -/
theorem exec_safe {i : Instr} (h : i = .close → s.fsm ≠ .closed) : Safe (exec i s) := by
  cases i
  case init cols rows font bl0 =>
    by_cases hf : s.fsm = .uninitialized ∨ s.fsm = .closed
    · by_cases hv : ValidSetup cols rows font
      · exact ⟨_, exec_init_valid hf hv⟩
      · exact ⟨_, exec_init_invalid hf hv⟩
    · exact ⟨_, if_neg hf⟩
  case close => exact ⟨_, if_neg (h rfl)⟩
  all_goals exact ⟨_, rfl⟩

theorem resume_safe (h : ∃ i, decodeRequest s.req = .ok i) : Safe (resume s) := by
  obtain ⟨i, hw⟩ := h
  simp only [resume, hw]
  split <;> exact ⟨_, rfl⟩

theorem resumeOrStand_safe (h : s.busy = true → ∃ i, decodeRequest s.req = .ok i) :
    Safe (if s.busy then resume s else .next s) := by
  split
  · next hb => exact resume_safe (h hb)
  · exact ⟨_, rfl⟩

theorem envTurn_safe (e : EnvInput) (h : s.busy = true → ∃ i, decodeRequest s.req = .ok i) : Safe (envTurn e s) := by
  cases e with
  | reset landed => exact ⟨_, rfl⟩
  | answers more => exact resumeOrStand_safe (s := { s with answers := s.answers ++ more }) h
  | delays n => exact resumeOrStand_safe (s := { s with delays := s.delays + n }) h
  | closes n => exact resumeOrStand_safe (s := { s with closes := s.closes + n }) h

theorem accept_safe {w : Word} (h : decodeRequest w = .ok .close → s.fsm ≠ .closed) : Safe (accept w s) := by
  unfold accept
  cases hw : decodeRequest w with
  | ok i => exact exec_safe fun hi => h (hi ▸ hw)
  | error e => exact ⟨_, rfl⟩

/-- A CLOSE word stands at the port of an idle block that is closed already (40_lifecycle_init.md R162). -/
def DoubleClose (s : State) : Prop :=
  s.fsm = .closed ∧ s.busy = false ∧ ∃ l, s.inbox = .request 0x020000000000000000000000 :: l

theorem blockTurn_doubleClose (h : DoubleClose s) : blockTurn s = .fault .doubleClose := by
  obtain ⟨hf, hb, l, hl⟩ := h
  have hw := (oneWord_close.1 _).2 rfl
  simp only [blockTurn, hb, hl, accept, hw, Bool.false_eq_true, if_false]
  exact exec_close_closed hf

theorem blockTurn_safe (hreq : s.busy = true → ∃ i, decodeRequest s.req = .ok i) (h : ¬ DoubleClose s) :
    Safe (blockTurn s) := by
  unfold blockTurn
  split
  · next hb =>
    split
    · next e l _ => exact envTurn_safe (s := { s with inbox := l }) e hreq
    · exact resume_safe (hreq hb)
  · next hb =>
    split
    · next w l hl =>
      refine accept_safe (s := { s with inbox := l }) fun hw hf => h ⟨hf, Bool.eq_false_iff.2 hb, l, ?_⟩
      rw [hl, (oneWord_close.1 w).1 hw]
    · next e l _ => exact envTurn_safe (s := { s with inbox := l }) e hreq
    · exact ⟨_, rfl⟩

/-- Everything a step can stop at: ill-formed parameters, and the double close. -/
theorem step_cases (h : Inv s) : Safe (step s) ∨ s.params.wf = false ∧ step s = .refused .badParameters ∨
    DoubleClose s ∧ step s = .fault .doubleClose := by
  have hreq : s.busy = true → ∃ i, decodeRequest s.req = .ok i := fun hb => by
    obtain ⟨i, hw, -⟩ := h.flight hb
    exact ⟨i, hw⟩
  cases hwf : s.params.wf with
  | false => exact .inr (.inl ⟨rfl, step_of_not_wf s hwf⟩)
  | true =>
    cases hir : s.lcd.ir with
    | some x => exact .inl ⟨_, (step_of_latched hwf hir).trans (controllerTurn_eq x.1 x.2 s)⟩
    | none =>
      have hstep : step s = blockTurn s := by simp [step, hwf, hir]
      rw [hstep]
      by_cases hd : DoubleClose s
      · exact .inr (.inr ⟨hd, blockTurn_doubleClose hd⟩)
      · exact .inl (blockTurn_safe hreq hd)

/-- Settles O53: `step_cases`. -/
theorem onlyDoubleCloseFaults : Obligations.OnlyDoubleCloseFaults := by
  unfold Obligations.OnlyDoubleCloseFaults
  intro s h
  obtain ⟨t, hsafe⟩ | ⟨hwf, hrefused⟩ | ⟨hdouble, hfault⟩ := step_cases h
  · exact ⟨fun f hf => (nomatch hsafe.symm.trans hf), fun r hr => (nomatch hsafe.symm.trans hr)⟩
  · exact ⟨fun f hf => (nomatch hrefused.symm.trans hf), fun _ _ => hwf⟩
  · refine ⟨fun f hf => ?_, fun r hr => nomatch hfault.symm.trans hr⟩
    cases hfault.symm.trans hf
    exact ⟨rfl, hdouble⟩

end Sys2Proof.Machine
end

section
/-! PROOFS. Framing (41_framing.md R180 to R186): the bytes of `writeNibble` and `send`, what can be read off them, and that the
latches of the bytes sent are those bytes. -/

namespace Sys2Proof.Machine

variable {p : Params}

/-- Settles O35: the formulas of R182 and R184 are those of `xbyte`, with the nibbles moved to the data lines. -/
theorem sendActions : Obligations.SendActions := by
  unfold Obligations.SendActions
  intro p bl rs
  refine ⟨fun n => ?_, fun v => ⟨rfl, ?_, okEvents_send p bl v rs⟩⟩
  · simp [writeNibble, xbyte, ctl]
  · simp [send, writeNibble, xbyte, ctl, hiNibble_high, loNibble_high]

/-- The four bytes of a sent byte: each nibble with enable high, then low (41_framing.md R182, R184). -/
theorem writesOf_sendTrace (p : Params) (bl : Bool) (v : Byte) (rs : Bool) : writesOf (sendTrace p bl v rs) =
    [xbyte p bl (hiNibble v) rs true, xbyte p bl (hiNibble v) rs false,
      xbyte p bl (loNibble v) rs true, xbyte p bl (loNibble v) rs false] := by
  rw [← okEvents_send]
  rfl

/-- No control line is driven but those of the three masks (30_encoding.md R103, R104). -/
theorem xbyte_unused (p : Params) (bl : Bool) (n : Nibble) (rs en : Bool) :
    xbyte p bl n rs en &&& 0x0F &&& ~~~(p.enMask ||| p.rsMask ||| p.blMask) = 0 := by
  have hdata : (n.setWidth 8 <<< 4 : Byte) &&& 0x0F = 0 := by revert n; decide
  have hmask : ∀ (on : Bool) (m : Byte) (k : Nat) (h : k < 8), (if on then m else 0)[k] = (on && m[k]) :=
    fun on m k h => by cases on <;> simp
  ext k hk
  have hbit := congrArg (·[k]) hdata
  simp only [BitVec.getElem_and] at hbit
  simp only [xbyte, ctl, BitVec.getElem_and, BitVec.getElem_or, BitVec.getElem_not, hmask]
  grind

/-- Settles O36: the four bytes, read by `xbyte_fields` and `xbyte_unused`. -/
theorem sendControlBits : Obligations.SendControlBits := by
  unfold Obligations.SendControlBits
  intro p bl v rs hm
  simp only [writesOf_sendTrace, List.map_cons, List.map_nil, xbyte_fields p hm, xbyte_unused, List.replicate, and_self]

/-- A written nibble is latched once, as its enable bit falls, whatever was written before (41_framing.md R183, R186). -/
theorem latchesFrom_nibble (hm : p.masksWf = true) (bl : Bool) (n : Nibble) (rs : Bool) (prev : Option (Byte × Ack))
    (t : List Event) : latchesFrom p prev (okEvents (writeNibble p bl n rs) ++ t) =
      (rs, n) :: latchesFrom p (some (xbyte p bl n rs false, .ok)) t := by
  obtain ⟨hhigh, hrs, -, hn⟩ := xbyte_fields p hm bl rs true n
  obtain ⟨hlow, -⟩ := xbyte_fields p hm bl rs false n
  have hrise : latchOf p prev (xbyte p bl n rs true) .ok = [] := by
    cases prev with
    | none => rfl
    | some w => exact if_neg fun h => bne_iff_ne.1 hhigh h.2.2.2
  have hfall : latchOf p (some (xbyte p bl n rs true, .ok)) (xbyte p bl n rs false) .ok = [(rs, n)] := by
    rw [latchOf, if_pos ⟨rfl, rfl, bne_iff_ne.1 hhigh, bne_eq_false_iff_eq.1 hlow⟩, hrs, hn]
  calc latchesFrom p prev (okEvents (writeNibble p bl n rs) ++ t)
    _ = latchOf p prev (xbyte p bl n rs true) .ok ++
          (latchOf p (some (xbyte p bl n rs true, .ok)) (xbyte p bl n rs false) .ok ++
            latchesFrom p (some (xbyte p bl n rs false, .ok)) t) := rfl
    _ = _ := by rw [hrise, hfall]; rfl

/-- A sent byte is latched as its two nibbles, high nibble first (41_framing.md R184, R186). -/
theorem latchesFrom_send (hm : p.masksWf = true) (bl : Bool) (v : Byte) (rs : Bool) (prev : Option (Byte × Ack))
    (t : List Event) : latchesFrom p prev (sendTrace p bl v rs ++ t) =
      (rs, hiNibble v) :: (rs, loNibble v) :: latchesFrom p (some (xbyte p bl (loNibble v) rs false, .ok)) t := by
  rw [← okEvents_send, send, okEvents_append, List.append_assoc, latchesFrom_nibble hm, latchesFrom_nibble hm]

theorem pairBytes_latchesFrom_sends (hm : p.masksWf = true) (bl : Bool) (l : List (Bool × Byte))
    (prev : Option (Byte × Ack)) : pairBytes (latchesFrom p prev (l.flatMap fun x => sendTrace p bl x.2 x.1)) = l := by
  induction l generalizing prev with
  | nil => rfl
  | cons x l ih => rw [List.flatMap_cons, latchesFrom_send hm, pairBytes, ih, joinNibbles]

/-- Settles O37: the latches from the first write on. -/
theorem latchesDeliverTheBytes : Obligations.LatchesDeliverTheBytes :=
  fun _ bl l hm => pairBytes_latchesFrom_sends hm bl l none

end Sys2Proof.Machine
end

section
/-! PROOFS. Waiting and going on (41_framing.md R190 to R193): without what its action needs an operation stands still, and with
it the operation goes on as if it had been there from the start. -/

namespace Sys2Proof.Machine

variable {s : State} {i : Instr}

/-! Standing still. -/

theorem takeEnv_eq_none {l : List Input} (h : ∀ e, .env e ∉ l) : takeEnv l = none := by
  induction l with
  | nil => rfl
  | cons x l ih =>
    cases x with
    | env e => exact absurd List.mem_cons_self (h e)
    | request w => rw [takeEnv, ih fun e he => h e (List.mem_cons_of_mem _ he)]; rfl

/-- A busy block that no input reaches goes on with its operation (41_framing.md R190). -/
theorem step_resumes (hwf : s.params.wf = true) (hir : s.lcd.ir = none) (hb : s.busy = true) (hin : ∀ e, .env e ∉ s.inbox) :
    step s = resume s := by
  simp only [step, hwf, hir, blockTurn, hb, takeEnv_eq_none hin, if_true]

theorem core_run_of_step_self (h : step s = .next s) (k : Nat) : Sys2Proof.core.run k s = .next s := by
  induction k with
  | zero => rfl
  | succ k ih =>
    have hstep : Sys2Proof.core.step s = .next s := h
    simp only [Host.Core.run, hstep]
    exact ih

/-- An operation goes on from its action at `upc` (41_framing.md R190). -/
theorem resume_eq_goOn (hw : decodeRequest s.req = .ok i) (hc : (i.isInit && s.closing) = false) :
    resume s = .next (goOn i s) := by
  simp only [resume, hw, hc, Bool.false_eq_true, if_false, goOn]

/-- INIT's abort goes on from its TClose (40_lifecycle_init.md R156). -/
theorem resume_eq_closeInit (hw : decodeRequest s.req = .ok i) (hi : i.isInit = true) (hc : s.closing = true) :
    resume s = .next (closeInit s) := by
  simp only [resume, hw, hi, hc, Bool.and_self, if_true]

theorem goOn_stands {a : Action} (ha : (actionsOf i s)[s.upc]? = some a)
    (h : asks a = 1 ∧ s.answers = [] ∨ waits a = 1 ∧ s.delays = 0) : goOn i s = s := by
  obtain ⟨hlt, rfl⟩ := List.getElem?_eq_some_iff.1 ha
  rw [goOn, List.drop_eq_getElem_cons hlt]
  obtain ⟨hq, hnone⟩ | ⟨hq, hnone⟩ := h
  · exact run_unanswered _ _ _ s hnone hq
  · cases hact : (actionsOf i s)[s.upc] with
    | wait t => exact run_undelayed _ t _ s hnone
    | tOpen | tWrite _ | tClose | setFsm _ => rw [hact] at hq; cases hq

theorem set_closing_eq_self (hc : s.closing = true) : { s with closing := true } = s := by
  rw [← hc]

/-- Settles O14: `resume` answers the state itself, so every step does. -/
theorem hangsWithoutAnswer : Obligations.HangsWithoutAnswer := by
  unfold Obligations.HangsWithoutAnswer
  intro s i k hwf hir hb hin hw
  have hstep := step_resumes hwf hir hb hin
  refine ⟨fun a hc ha hmiss => ?_, fun hc h0 hclose => ?_⟩
  · have hres : resume s = .next (goOn i s) := resume_eq_goOn hw (by rw [hc, Bool.and_false])
    rw [goOn_stands ha hmiss] at hres
    exact core_run_of_step_self (hstep.trans hres) k
  · have hres : resume s = .next { s with closing := true } := by
      obtain hi | ⟨rfl, hk⟩ := hclose
      · rw [resume_eq_closeInit hw hi hc, closeInit_held s h0]
      · rw [resume_eq_goOn hw rfl, goOn_close_held hk h0]
    rw [set_closing_eq_self hc] at hres
    exact core_run_of_step_self (hstep.trans hres) k

end Sys2Proof.Machine
end

section
/-! PROOFS. Stopping and going on is one run (41_framing.md R190, R193). Up to where an operation stands, running it with more
answers and completions in store does the same and leaves them there (`run_append_withMore`); from there on `resume` is the rest of
that run. -/

namespace Sys2Proof.Machine

/-- `s` with further answers and completions to come (41_framing.md R192). -/
def State.withMore (more : List Answer) (n c : Nat) (s : State) : State :=
  { s with answers := s.answers ++ more, delays := s.delays + n, closes := s.closes + c }

variable {s t u : State} {i : Instr} {more : List Answer} {n c : Nat}

/-- The actions completed determine everything but the answers and completions left. -/
theorem Ran.eq_withMore {l : List Action} (h : Ran l s t) (h' : Ran l (s.withMore more n c) u)
    (ha : u.answers = t.answers ++ more) (hd : u.delays = t.delays + n) : u = t.withMore more n c := by
  have hlcd : u.lcd = t.lcd := (Prod.mk.inj (h'.board.trans h.board.symm)).2
  cases h
  cases h'
  cases u
  cases t
  simp_all [State.withMore]

/-- Running a list up to what follows it, with and without more in store. -/
theorem run_append_withMore (more : List Answer) (n c : Nat) (ab : State → State) (pre post : List Action)
    (rest : List Answer) (d : Nat) (hs : pre.all Action.inSession = true)
    (ha : s.answers = List.replicate (asksOf pre) .ok ++ rest) (hd : s.delays = waitsNeeded pre + d) :
    ∃ t, run ab (pre ++ post) s = run ab post t ∧
      run ab (pre ++ post) (s.withMore more n c) = run ab post (t.withMore more n c) ∧
      t.answers = rest ∧ t.delays = d ∧ Ran pre s t := by
  obtain ⟨t, hrun, hta, htd, h⟩ := run_append_ok ab pre post s rest d hs ha hd
  obtain ⟨u, hrun', hua, hud, h'⟩ := run_append_ok ab pre post (s.withMore more n c) (rest ++ more) (d + n) hs
    (by rw [← List.append_assoc, ← ha]; rfl) (by rw [← Nat.add_assoc, ← hd]; rfl)
  have hu : u = t.withMore more n c := h.eq_withMore h' (by rw [hua, hta]) (by rw [hud, htd])
  exact ⟨t, hrun, hu ▸ hrun', hta, htd, h⟩

theorem drive_withMore (v : Byte) (s : State) : drive v (s.withMore more n c) = (drive v s).withMore more n c := by
  unfold drive
  rw [apply_ite (State.withMore more n c)]
  rfl

theorem driveFailed_withMore (v : Byte) (reached : Bool) (s : State) :
    driveFailed v reached (s.withMore more n c) = (driveFailed v reached s).withMore more n c := by
  cases reached with
  | false => rfl
  | true =>
    simp only [driveFailed, if_true, drive_withMore]
    rfl

/-- A request answered `err` ends the list, with and without more in store (41_framing.md R191). -/
theorem run_err_withMore (more : List Answer) (n c : Nat) (ab : State → State) {a : Action} (post : List Action)
    {rest : List Answer} {reached : Bool} (hq : asks a = 1) (ha : t.answers = .err reached :: rest) :
    ∃ u, Fails t u ∧ run ab (a :: post) t = ab u ∧
      run ab (a :: post) (t.withMore more n c) = ab (u.withMore more n c) := by
  have ha' : (t.withMore more n c).answers = .err reached :: (rest ++ more) := by
    rw [State.withMore, ha, List.cons_append]
  cases a with
  | tWrite v =>
    refine ⟨_, .write v reached rest, run_tWrite_err ab v post t rest reached ha, ?_⟩
    rw [run_tWrite_err ab v post _ (rest ++ more) reached ha', ← driveFailed_withMore]
    rfl
  | tOpen =>
    refine ⟨_, .tOpen rest, run_tOpen_err ab post t rest reached ha, ?_⟩
    rw [run_tOpen_err ab post _ (rest ++ more) reached ha']
    rfl
  | tClose | wait _ | setFsm _ => cases hq

/-- WHERE A LIST STANDS, AND HOW IT GOES ON with more in store, for a list that does not end the handle: it is over; it stands at an
action, from which the larger run goes on; or a request failed, and the larger run aborts the same way. -/
theorem run_rest_withMore (more : List Answer) (n c : Nat) (ab : State → State) {L : List Action}
    (hs : L.all Action.inSession = true) :
    (∃ t, run ab (L.drop s.upc) s = respond .ok t) ∨
    (∃ t, run ab (L.drop s.upc) s = t ∧ RanTo L s t ∧
      run ab (L.drop s.upc) (s.withMore more n c) = run ab (L.drop t.upc) (t.withMore more n c)) ∨
    ∃ t u, RanTo L s t ∧ Fails t u ∧ run ab (L.drop s.upc) s = ab u ∧
      run ab (L.drop s.upc) (s.withMore more n c) = ab (u.withMore more n c) := by
  have hs' : (L.drop s.upc).all Action.inSession = true :=
    List.all_eq_true.2 fun a ha => List.all_eq_true.1 hs a (List.mem_of_mem_drop ha)
  have hpre : ∀ {pre post}, L.drop s.upc = pre ++ post → pre.all Action.inSession = true := fun hL => by
    rw [hL, List.all_append, Bool.and_eq_true] at hs'
    exact hs'.1
  obtain ⟨rest, d, ha, hd⟩ | ⟨pre, a, post, rest, d, hL, ha, hd, hmiss⟩ | ⟨pre, a, post, r, rest, d, hL, hq, ha, hd⟩ :=
    served_cases (L.drop s.upc) s.answers s.delays
  · obtain ⟨t, hrun, -⟩ := run_ok ab (L.drop s.upc) s rest d hs' ha hd
    exact .inl ⟨t, hrun⟩
  · obtain ⟨t, hrun, hmore, hta, htd, h⟩ :=
      run_append_withMore more n c ab pre (a :: post) rest d (hpre hL) ha hd
    have hto := ranTo_of_drop hL h
    have hdrop : L.drop t.upc = a :: post := by
      rw [h.upc, ← List.drop_drop, hL, List.drop_left]
    have hstop : run ab (a :: post) t = t := by
      obtain ⟨hq, rfl⟩ | ⟨hq, rfl⟩ := hmiss
      · exact run_unanswered ab a post t hta hq
      · cases a with
        | wait x => exact run_undelayed ab x post t htd
        | tOpen | tWrite _ | tClose | setFsm _ => cases hq
    exact .inr (.inl ⟨t, by rw [hL, hrun, hstop], hto, by rw [hdrop, hL, hmore]⟩)
  · obtain ⟨t, hrun, hmore, hta, -, h⟩ :=
      run_append_withMore more n c ab pre (a :: post) (.err r :: rest) d (hpre hL) ha hd
    obtain ⟨u, hf, herr, herr'⟩ := run_err_withMore more n c ab post hq hta
    exact .inr (.inr ⟨t, u, ranTo_of_drop hL h, hf, by rw [hL, hrun, herr], by rw [hL, hmore, herr']⟩)

/-! The operations. -/

/-- INIT's abort, held at its TClose, goes on as that of a state with more in store. -/
theorem abortInit_withMore (more : List Answer) (n c : Nat) (hb : (abortInit u).busy = true) :
    (abortInit u).closing = true ∧ (abortInit u).req = u.req ∧
      closeInit ((abortInit u).withMore more n c) = abortInit (u.withMore more n c) := by
  have hk : u.upc ≠ 0 := fun hk => by rw [abortInit_open u hk] at hb; cases hb
  have hc : u.closes = 0 := by
    cases hc : u.closes with
    | zero => rfl
    | succ m => rw [abortInit_write u hk, closeInit_done u m hc] at hb; cases hb
  rw [abortInit_write u hk, closeInit_held u hc, abortInit_write _ (by exact hk)]
  refine ⟨rfl, rfl, ?_⟩
  unfold closeInit
  simp only [State.withMore]
  split <;> rfl

theorem goOn_withMore (i : Instr) (s : State) :
    goOn i (s.withMore more n c) = run (abortOf i) ((actionsOf i s).drop s.upc) (s.withMore more n c) := by
  have hlist := actionsOf_congr i s (s.withMore more n c) rfl rfl rfl rfl rfl
  rw [goOn, hlist]
  rfl

/-- An operation but CLOSE, stopped and gone on with, is one run. -/
theorem resume_goOn_withMore (hw : decodeRequest s.req = .ok i) (hs : (actionsOf i s).all Action.inSession = true)
    (hc : s.closing = false) (hb : (goOn i s).busy = true) :
    resume ((goOn i s).withMore more n c) = .next (goOn i (s.withMore more n c)) := by
  obtain ⟨t, hrun⟩ | ⟨t, hrun, hto, hmore⟩ | ⟨t, u, hto, hf, hrun, hmore⟩ :=
    run_rest_withMore (s := s) more n c (abortOf i) hs
  · rw [goOn, hrun] at hb
    cases hb
  · have hsame := hto.actionsOf i
    obtain ⟨pre, -, hran⟩ := hto
    have hw' : decodeRequest (t.withMore more n c).req = .ok i := hran.req ▸ hw
    have hc' : (i.isInit && (t.withMore more n c).closing) = false := by
      have hclosing : (t.withMore more n c).closing = false := hran.closing.trans hc
      rw [hclosing, Bool.and_false]
    rw [goOn, hrun, resume_eq_goOn hw' hc', goOn_withMore, goOn_withMore, hmore, hsame]
  · have hreq : u.req = s.req := by
      obtain ⟨pre, -, hran⟩ := hto
      rw [hf.eq]
      exact hran.req
    rw [goOn, hrun] at hb ⊢
    rw [goOn_withMore, hmore]
    cases hi : i.isInit with
    | false =>
      rw [abortOf_ready hi] at hb
      cases hb
    | true =>
      rw [abortOf_init hi] at hb ⊢
      obtain ⟨hclosing, hreq', habort⟩ := abortInit_withMore more n c hb
      rw [← habort]
      exact resume_eq_closeInit (hw ▸ congrArg decodeRequest (hreq'.trans hreq)) hi hclosing

/-- CLOSE, stopped at its TClose and gone on with, is one run. -/
theorem resume_goOn_close_withMore (hw : decodeRequest s.req = .ok .close) (hk : s.upc = 0)
    (hb : (goOn .close s).busy = true) :
    resume ((goOn .close s).withMore more n c) = .next (goOn .close (s.withMore more n c)) := by
  have h0 : s.closes = 0 := by
    cases h : s.closes with
    | zero => rfl
    | succ m => rw [goOn_close_done hk h] at hb; cases hb
  have hresume := resume_eq_goOn (i := .close) (s := State.withMore more n c { s with closing := true }) hw rfl
  rw [goOn_close_held hk h0, hresume]
  cases c with
  | zero =>
    rw [goOn_close_held (s := s.withMore more n 0) hk h0]
    exact congrArg _ (goOn_close_held hk h0)
  | succ m =>
    have hc : s.closes + (m + 1) = m + 1 := by rw [h0, Nat.zero_add]
    rw [goOn_close_done (s := s.withMore more n (m + 1)) hk hc]
    exact congrArg _ (goOn_close_done hk hc)

/-- An operation that stands in flight was taken for its lifecycle state and geometry alone: any state with the same ones takes
it too (60_exceptions.md R305, 42_screen_cursor.md R214). -/
theorem exec_of_busy (hi : i.isRequest = true) (h : exec i s = .next t) (hb : t.busy = true) (hf : u.fsm = s.fsm)
    (hcols : u.cols = s.cols) (hrows : u.rows = s.rows) : exec i u = .next (goOn i (begun i u)) := by
  obtain ⟨r, rfl⟩ | ⟨ha, -⟩ := exec_request hi h
  · cases hb
  rw [← hf] at ha
  obtain hinit | rfl | hop := request_cases hi
  · cases i
    case init cols rows font bl0 =>
      obtain ⟨hfu, hv⟩ := ha
      exact exec_init_valid hfu ((initValid_iff cols rows font).1 hv)
    all_goals cases hinit
  · exact exec_close_ready ha
  · have hni := not_isInit_of_isReadyOp hop
    have hready := (admits_iff_ready hni _).1 ha
    have hv : ∀ row col, i = .setCursor row col → cursorValid u.cols u.rows row col = true := by
      rintro row col rfl
      by_contra hv
      rw [hcols, hrows] at hv
      simp only [exec, execSetCursor, inReady, if_pos (hf.symm.trans hready)] at h
      rw [if_neg (by exact hv)] at h
      cases h
      cases hb
    rw [exec_ready i u hop hready hv, goOn, abortOf_ready hni, begun_eq_opStart hni]
    rfl

theorem begun_withMore (i : Instr) (s : State) : begun i (s.withMore more n c) = (begun i s).withMore more n c := by
  cases i <;> rfl

/-- Settles O15: the operation is taken with more in store too, and goes on as one run, by its kind. -/
theorem resumeIsOneRun : Obligations.ResumeIsOneRun := by
  unfold Obligations.ResumeIsOneRun
  intro s t i more n c hi hw h hb
  have hexec : exec i (s.withMore more n c) = .next (goOn i (begun i (s.withMore more n c))) :=
    exec_of_busy hi h hb rfl rfl rfl
  have ht : t = goOn i (begun i s) := Host.Outcome.next.inj (h.symm.trans (exec_of_busy hi h hb rfl rfl rfl))
  subst ht
  rw [begun_withMore] at hexec
  refine Eq.trans ?_ hexec.symm
  obtain hinit | rfl | hop := request_cases hi
  · cases i
    case init cols rows font bl0 =>
      obtain ⟨-, -, -, hsess⟩ := initActions_needs (begun (.init cols rows font bl0) s)
      exact resume_goOn_withMore hw hsess rfl hb
    all_goals cases hinit
  · exact resume_goOn_close_withMore hw rfl hb
  · rw [begun_eq_opStart (not_isInit_of_isReadyOp hop)] at hb ⊢
    exact resume_goOn_withMore (s := opStart i s) hw (plain_lifecycle _ (actionsOf_plain i _ hop)).2.2 rfl hb

end Sys2Proof.Machine
end

section
/-! PROOFS. CLEAR, HOME and SET_CURSOR (42_screen_cursor.md R210 to R216). Each sends one command byte. What follows from that is
said once for every operation of `Ready`: the words of an opcode by its format, `Does` from the operation's list
(`does_readyOp`), and what a controller in step makes of a command byte sent to it (`exec_sends_command`). -/

namespace Sys2Proof.Machine

variable {s : State} {i : Instr}

/-! The words of an opcode. -/

theorem decodeRequest_iff_of_encode {w : Word} (hwf : i.wf = true) (henc : encode i = .request w) (v : Word) :
    decodeRequest v = .ok i ↔ v = w := by
  constructor
  · intro h
    exact Code.request.inj ((encode_of_decodeRequest h).2.symm.trans henc)
  · rintro rfl
    exact decodeRequest_of_encode hwf henc

/-- An opcode of format `N` has one word (30_encoding.md R101, R105). -/
theorem oneWord_of_formatN {op : Byte} (hwf : i.wf = true) (henc : encode i = .request (packN op))
    (hdec : ∀ v, Word.op v = op → decodeRequest v = ifReserved (reservedN v) i) : OneWord op (packN op) i :=
  oneWord_of_encode hwf henc fun v _ hop h => (ifReserved_eq_ok ((hdec v hop).symm.trans h)).symm

theorem oneWord_clear : OneWord 0x10 0x100000000000000000000000 .clear :=
  oneWord_of_formatN rfl rfl fun v hop => by rw [decodeRequest, hop]; rfl

theorem oneWord_home : OneWord 0x11 0x110000000000000000000000 .home :=
  oneWord_of_formatN rfl rfl fun v hop => by rw [decodeRequest, hop]; rfl

/-- The legal words of SET_CURSOR are those of format `RC` with nothing in the reserved fields (30_encoding.md R107). -/
theorem noOtherWord_setCursor : NoOtherWord 0x12 fun w => ∃ row col, w = packWord 0x12 row col 0 0 :=
  noOtherWord_of_decode fun w i hop h => by
    have hdec : decodeRequest w = ifReserved (reservedRC w) (.setCursor (Word.a w) (Word.b w)) := by
      rw [decodeRequest, hop]; rfl
    obtain ⟨hres, -⟩ := ifReserved_eq_ok_iff.1 (hdec.symm.trans h)
    exact ⟨_, _, Code.request.inj (encode_setCursor_of_reserved hop hres).symm⟩

/-! What an operation of `Ready` does. -/

/-- What an operation of `Ready` needs besides `Ready` to run its list: SET_CURSOR's range check (42_screen_cursor.md R214). -/
def InRange (i : Instr) (s : State) : Prop := ∀ row col, i = .setCursor row col → cursorValid s.cols s.rows row col = true

theorem inRange_of_ne_setCursor (h : ∀ row col, i ≠ .setCursor row col) : InRange i s :=
  fun row col hi => absurd hi (h row col)

theorem inRange_setCursor {row col : Byte} (hc : col < s.cols) (hr : row < s.rows) : InRange (.setCursor row col) s := by
  rintro _ _ ⟨⟩
  simp [cursorValid, hc, hr]

/-- Out of range, SET_CURSOR writes nothing (42_screen_cursor.md R214). -/
theorem exec_setCursor_invalid {row col : Byte} (hf : s.fsm = .ready) (h : s.cols ≤ col ∨ s.rows ≤ row) :
    exec (.setCursor row col) s = .next (turnedAway .invalidArgument s) := by
  have hv : ¬ cursorValid s.cols s.rows row col = true := by
    simp only [cursorValid, Bool.and_eq_true, decide_eq_true_eq, not_and_or, BitVec.not_lt]
    exact h
  calc exec (.setCursor row col) s
    _ = .next (if cursorValid s.cols s.rows row col then run abortReady (setCursorActions row col (start s)) (start s)
          else respond .invalidArgument (start s)) := congrArg Host.Outcome.next (if_pos hf)
    _ = _ := congrArg Host.Outcome.next (if_neg hv)

/-- An operation whose list begins with a byte sent does the events of its list. -/
theorem does_readyOp {p : Params} {bl rs : Bool} {v : Byte} {post : List Action} (hi : isReadyOp i = true)
    (hf : s.fsm = .ready) (hv : InRange i s) (hlist : actionsOf i (opStart i s) = send p bl v rs ++ post) :
    Does i (blAfter i s) (dcAfter i s) (sendTrace p bl v rs ++ okEvents post) s := by
  have hwrites : writesOf (sendTrace p bl v rs ++ okEvents post) ≠ [] := by
    rw [writesOf_append, writesOf_sendTrace]
    exact List.cons_ne_nil _ _
  have hevents : okEvents (actionsOf i (opStart i s)) = sendTrace p bl v rs ++ okEvents post := by
    rw [hlist, okEvents_append, okEvents_send]
  rw [← hevents] at hwrites ⊢
  exact does_of_actions i _ _ _ s (exec_ready i s hi hf hv) (actionsOf_plain i _ hi) fun h => absurd h hwrites

/-- Settles O24: format `N`, the state check, and the list of `actionsOf`, which waits T_CLEAR at its end. -/
theorem clearRule : Obligations.ClearRule := by
  unfold Obligations.ClearRule
  exact ⟨oneWord_clear, fun s => ⟨exec_notReady rfl, fun hf =>
    does_readyOp (i := .clear) rfl hf (inRange_of_ne_setCursor fun _ _ => nofun) rfl⟩⟩

/-- Settles O25: format `N`, the state check, and the list of `actionsOf`, which waits T_HOME at its end. -/
theorem homeRule : Obligations.HomeRule := by
  unfold Obligations.HomeRule
  exact ⟨oneWord_home, fun s => ⟨exec_notReady rfl, fun hf =>
    does_readyOp (i := .home) rfl hf (inRange_of_ne_setCursor fun _ _ => nofun) rfl⟩⟩

/-- Settles O26: format `RC`, the state check, the range check, and the list of `actionsOf`. -/
theorem setCursorRule : Obligations.SetCursorRule := by
  unfold Obligations.SetCursorRule
  refine ⟨fun w row col => decodeRequest_iff_of_encode rfl rfl w, noOtherWord_setCursor, fun s row col =>
    ⟨exec_notReady rfl, exec_setCursor_invalid, fun hf _ hc hr => ?_⟩⟩
  have hdoes := does_readyOp (post := []) rfl hf (inRange_setCursor hc hr) (List.append_nil _).symm
  rwa [show okEvents [] = [] from rfl, List.append_nil] at hdoes

/-! What reaches the controller. -/

/-- No command latches a byte: the work taken off the latch is all there is. -/
theorem Lcd.command_ir (c : Instr) (l : Lcd) : (l.command c).ir = l.ir := by cases c <;> rfl

/-- With no work left, waits change nothing on the board. -/
theorem board_waits (p : Params) (g : Screen) (ds : List Delay) {b : Byte × Lcd} (h : b.2.ir = none) :
    board p g (ds.map .wait) b = b := by
  induction ds with
  | nil => rfl
  | cons d ds ih => rw [List.map_cons, board_wait, Lcd.settle_idle g b.2 h, ih]

theorem asksOf_waits (ds : List Delay) : asksOf (ds.map .wait) = 0 := by
  induction ds with
  | nil => rfl
  | cons d ds ih => exact (Nat.zero_add _).trans ih

theorem waitsNeeded_waits (ds : List Delay) : waitsNeeded (ds.map .wait) = ds.length := by
  induction ds with
  | nil => rfl
  | cons d ds ih => exact (congrArg (1 + ·) ih).trans (Nat.add_comm _ _)

/-- An operation of `Ready` with all its list served ends with `OK`, having run the list. -/
theorem exec_served {rest : List Answer} {d : Nat} (hi : isReadyOp i = true) (hf : s.fsm = .ready) (hv : InRange i s)
    (hs : Serves (asksOf (actionsOf i (opStart i s))) (waitsNeeded (actionsOf i (opStart i s))) s rest d) :
    ∃ t, exec i s = .next (respond .ok t) ∧ Ran (actionsOf i (opStart i s)) (opStart i s) t := by
  obtain ⟨ha, hd⟩ := hs
  obtain ⟨-, -, hsess⟩ := plain_lifecycle _ (actionsOf_plain i (opStart i s) hi)
  obtain ⟨t, hrun, -, -, h⟩ := run_ok abortReady _ (opStart i s) rest d hsess ha hd
  exact ⟨t, (exec_ready i s hi hf hv).trans (congrArg _ hrun), h⟩

/-- A controller in step executes the command that an operation sends it, and then only waits are left (41_framing.md R186,
30_encoding.md R120). -/
theorem exec_sends_command {c : Instr} {v : Byte} {bl : Bool} {ds : List Delay} {rest : List Answer} {d : Nat}
    (h : InStep s) (hi : isReadyOp i = true) (hv : InRange i s)
    (hlist : actionsOf i (opStart i s) = send s.params bl v false ++ ds.map .wait) (hdec : decodeCommand v = .ok c)
    (hs : Serves 4 (2 + ds.length) s rest d) :
    ∃ t, exec i s = .next (respond .ok t) ∧ Ran (actionsOf i (opStart i s)) (opStart i s) t ∧
      t.lcd = Lcd.command c { s.lcd with draws := s.lcd.draws + 1 } := by
  obtain ⟨hf, hm, -, hbus, hir⟩ := h
  have hasks : asksOf (actionsOf i (opStart i s)) = 4 := by rw [hlist, asksOf_append, asksOf_send, asksOf_waits]
  have hwaits : waitsNeeded (actionsOf i (opStart i s)) = 2 + ds.length := by
    rw [hlist, waitsNeeded_append, waitsNeeded_send, waitsNeeded_waits]
  obtain ⟨t, hexec, hran⟩ := exec_served hi hf hv (by rwa [hasks, hwaits])
  have hidle : (Lcd.command c { s.lcd with draws := s.lcd.draws + 1 }).ir = none := (Lcd.command_ir c _).trans hir
  refine ⟨t, hexec, hran, ?_⟩
  calc t.lcd = (board s.params s.screen (actionsOf i (opStart i s)) (s.out, s.lcd)).2 := congrArg Prod.snd hran.board
    _ = (board s.params s.screen (ds.map .wait) (_, Lcd.command c { s.lcd with draws := s.lcd.draws + 1 })).2 := by
      rw [hlist, board_append, board_send _ _ hm, Lcd.takes_command _ _ _ hdec _ hbus hir]
    _ = _ := by rw [board_waits _ _ _ hidle]

/-- Settles O39: the byte sent is 0x01 at the default literals, which is LCD_CLEAR. -/
theorem clearEmptiesTheScreen : Obligations.ClearEmptiesTheScreen := by
  unfold Obligations.ClearEmptiesTheScreen
  intro s rest d h hs
  have ⟨_, _, hstd, hbus, hir⟩ := h
  have hdec : decodeCommand s.params.cmdClear = .ok .lcdClear := by rw [(std_bytes hstd).1]; rfl
  obtain ⟨t, hexec, -, hlcd⟩ := exec_sends_command (i := .clear) (ds := [.clear]) h rfl
    (inRange_of_ne_setCursor fun _ _ => nofun) rfl hdec hs
  refine ⟨_, hexec, ?_⟩
  simp only [Synced, SameRegisters, SameSettings, respond_lcd, hlcd]
  exact ⟨⟨hbus, hir⟩, Lcd.ddramAt_clear _, rfl, fun _ => rfl, ⟨⟨rfl, rfl, rfl, rfl⟩, rfl⟩, rfl⟩

/-- A position within a legal geometry has a set-address byte for its row and column (20_memory.md R71). -/
theorem decode_ddram_of_legal {row col : Byte} (hg : legalGeometry s) (hr : row < s.rows) (hc : col < s.cols) :
    decodeCommand (cbDdram row col) = .ok (.lcdSetDdramAddr
      ((if row = 0 then 0x00 else if row = 1 then 0x40 else if row = 2 then 0x14 else 0x54) + col.setWidth 7)) := by
  obtain ⟨hcols, hrows, -⟩ := hg
  have hcol : col < 20 := by rcases hcols with h | h <;> bv_omega
  have hrow : row < 4 := by rcases hrows with h | h | h <;> bv_omega
  have hmem : ∀ row : Byte, row < 4 → row ∈ [0, 1, 2, 3] := by decide
  exact decode_ddram_all row (hmem row hrow) col hcol

/-- Settles O41: the byte sent is the set-address command of row and column. -/
theorem setCursorPoints : Obligations.SetCursorPoints := by
  unfold Obligations.SetCursorPoints
  intro s row col rest d h hg hr hc hs
  have ⟨_, _, _, hbus, hir⟩ := h
  obtain ⟨t, hexec, -, hlcd⟩ := exec_sends_command (ds := []) h rfl (inRange_setCursor hc hr) (List.append_nil _).symm
    (decode_ddram_of_legal hg hr hc) hs
  refine ⟨_, hexec, ?_⟩
  simp only [Synced, SameMemory, SameRegisters, SameSettings, respond_lcd, hlcd]
  exact ⟨⟨hbus, hir⟩, rfl, ⟨fun _ => rfl, fun _ => rfl⟩, ⟨⟨rfl, rfl, rfl, rfl⟩, rfl⟩, rfl⟩

end Sys2Proof.Machine
end

section
/-! PROOFS. UPLOAD_CUSTOM_CHAR (43_custom_char.md R230 to R233). Its list sends one command byte and eight data bytes, so what a
list of bytes sent does is said once: its events, the latches they deliver, and what a controller in step makes of them. In CGRAM
the data bytes are stored one after the other, a glyph's rows. -/

namespace Sys2Proof.Machine

variable {s : State} {p : Params} {g : Screen} {l : Lcd} {a : BitVec 6}

/-! Lists of bytes sent, each with its register-select bit. -/

/-- The actions that send the bytes `xs` one after the other (41_framing.md R184). -/
def sends (p : Params) (bl : Bool) (xs : List (Bool × Byte)) : List Action := xs.flatMap fun x => send p bl x.2 x.1

/-- What a controller makes of the bytes `xs` sent one after the other. -/
def Lcd.takesAll (g : Screen) (xs : List (Bool × Byte)) (l : Lcd) : Lcd := xs.foldl (fun l x => l.takes g x.1 x.2) l

theorem sends_cons (p : Params) (bl : Bool) (x : Bool × Byte) (xs : List (Bool × Byte)) :
    sends p bl (x :: xs) = send p bl x.2 x.1 ++ sends p bl xs := rfl

theorem okEvents_sends (p : Params) (bl : Bool) (xs : List (Bool × Byte)) :
    okEvents (sends p bl xs) = xs.flatMap fun x => sendTrace p bl x.2 x.1 := by
  induction xs with
  | nil => rfl
  | cons x xs ih => rw [sends_cons, okEvents_append, okEvents_send, ih, List.flatMap_cons]

theorem asksOf_sends (p : Params) (bl : Bool) (xs : List (Bool × Byte)) : asksOf (sends p bl xs) = 4 * xs.length := by
  induction xs with
  | nil => rfl
  | cons x xs ih => rw [sends_cons, asksOf_append, asksOf_send, ih, List.length_cons]; omega

theorem waitsNeeded_sends (p : Params) (bl : Bool) (xs : List (Bool × Byte)) :
    waitsNeeded (sends p bl xs) = 2 * xs.length := by
  induction xs with
  | nil => rfl
  | cons x xs ih => rw [sends_cons, waitsNeeded_append, waitsNeeded_send, ih, List.length_cons]; omega

theorem length_writesOf_sends (p : Params) (bl : Bool) (xs : List (Bool × Byte)) :
    (writesOf (okEvents (sends p bl xs))).length = 4 * xs.length := by
  induction xs with
  | nil => rfl
  | cons x xs ih =>
    rw [sends_cons, okEvents_append, writesOf_append, List.length_append, ih, okEvents_send, writesOf_sendTrace,
      List.length_cons]
    simp only [List.length_cons, List.length_nil]
    omega

theorem waitsOf_sends (p : Params) (bl : Bool) (xs : List (Bool × Byte)) :
    waitsOf (okEvents (sends p bl xs)) = List.replicate (2 * xs.length) .settle := by
  induction xs with
  | nil => rfl
  | cons x xs ih =>
    have hone : waitsOf (okEvents (send p bl x.2 x.1)) = List.replicate 2 .settle := rfl
    rw [sends_cons, okEvents_append, waitsOf_append, ih, hone, List.replicate_append_replicate, List.length_cons,
      Nat.mul_add_one, Nat.add_comm]

theorem board_sends (hm : p.masksWf = true) (bl : Bool) (xs : List (Bool × Byte)) (b : Byte × Lcd) :
    (board p g (sends p bl xs) b).2 = b.2.takesAll g xs := by
  induction xs generalizing b with
  | nil => rfl
  | cons x xs ih => rw [sends_cons, board_append, board_send p g hm, ih]; rfl

/-! The operation. -/

/-- The nine bytes of an upload: the address command, then the pattern (43_custom_char.md R230). -/
def uploadBytes (loc : Byte) (pattern : List Byte) : List (Bool × Byte) :=
  (false, cbCgram loc) :: pattern.map fun b => (true, b)

theorem actionsOf_upload (loc : Byte) (pattern : List Byte) (s : State) :
    actionsOf (.uploadCustomChar loc pattern) s = sends s.params s.bl (uploadBytes loc pattern) := by
  rw [uploadBytes, sends_cons, sends, List.flatMap_map]
  rfl

theorem length_uploadBytes (loc : Byte) {pattern : List Byte} (h : pattern.length = 8) :
    (uploadBytes loc pattern).length = 9 := by
  rw [uploadBytes, List.length_cons, List.length_map, h]

/-- The legal words of UPLOAD_CUSTOM_CHAR are those of format `U` with nothing in the reserved fields (30_encoding.md R107). -/
theorem noOtherWord_upload : NoOtherWord 0x14 fun w => ∃ loc p, w = packWord 0x14 loc 0 0 p :=
  noOtherWord_of_decode fun w i hop h => by
    have hdec : decodeRequest w =
        ifReserved (reservedU w) (.uploadCustomChar (Word.a w) (patternBytes (Word.p w))) := by
      rw [decodeRequest, hop]; rfl
    obtain ⟨hres, -⟩ := ifReserved_eq_ok_iff.1 (hdec.symm.trans h)
    exact ⟨_, _, Code.request.inj (encode_uploadCustomChar_of_reserved hop hres).symm⟩

/-- Settles O28: format `U`, the state check, and the list of `actionsOf`, whose bytes are those of `uploadBytes`. -/
theorem uploadRule : Obligations.UploadRule := by
  unfold Obligations.UploadRule
  refine ⟨fun w loc p0 p1 p2 p3 p4 p5 p6 p7 => decodeRequest_iff_of_encode rfl rfl w, noOtherWord_upload,
    fun s loc pattern => ?_⟩
  have htrace : okEvents (sends s.params s.bl (uploadBytes loc pattern)) =
      sendTrace s.params s.bl (0x40 ||| ((loc &&& 0x7) <<< 3)) false ++
        pattern.flatMap fun b => sendTrace s.params s.bl b true := by
    rw [okEvents_sends, uploadBytes, List.flatMap_cons, List.flatMap_map]
    rfl
  rw [← htrace]
  refine ⟨exec_notReady rfl, fun hf hlen => ⟨?_, ?_, ?_, fun hm => ?_⟩⟩
  · have hlist := actionsOf_upload loc pattern (opStart (.uploadCustomChar loc pattern) s)
    rw [uploadBytes, sends_cons] at hlist
    have hdoes := does_readyOp (i := .uploadCustomChar loc pattern) rfl hf (inRange_of_ne_setCursor fun _ _ => nofun) hlist
    rwa [← okEvents_send, ← okEvents_append] at hdoes
  · rw [length_writesOf_sends, length_uploadBytes loc hlen]
  · rw [waitsOf_sends, length_uploadBytes loc hlen]
  · rw [okEvents_sends]
    exact latchesDeliverTheBytes s.params s.bl (uploadBytes loc pattern) hm

/-! Data bytes in CGRAM: a glyph's rows (20_memory.md R72, 43_custom_char.md R232, R233). -/

/-- Whatever the entry mode, the pointer stays in CGRAM; with increment it steps to the glyph's next row, up to its last. -/
theorem Lcd.nextPtr_cgram (g : Screen) (hptr : l.ptr = .cgram a) : ∃ a', l.nextPtr g = .cgram a' ∧
    (l.increment = true → a'.toNat = 8 * (a.toNat / 8) + min (a.toNat % 8 + 1) 7) := by
  have hlast : a.extractLsb' 0 3 = 7#3 ↔ a.toNat % 8 = 7 := by rw [← BitVec.toNat_inj, BitVec.extractLsb'_toNat]; rfl
  have hlt := a.isLt
  simp only [Lcd.nextPtr, hptr, hlast]
  split
  · split
    · exact ⟨a, rfl, fun _ => by omega⟩
    · exact ⟨a + 1, rfl, fun _ => (BitVec.toNat_add a 1).trans (by change (a.toNat + 1) % 64 = _; omega)⟩
  · next hfixed => exact ⟨_, rfl, fun hinc => absurd hinc hfixed⟩

theorem Lcd.data_cgram (g : Screen) (b : Byte) (hptr : l.ptr = .cgram a) : l.data g b =
    { l with
      cgram := l.cgram.write a.toNat b
      ptr := l.nextPtr g
      window := if l.shift then Config.windowPos l.draws else l.window
      draws := l.draws + 1 } := by
  simp only [Lcd.data, hptr]

/-- What a controller makes of the data bytes `bs` sent one after the other. -/
def Lcd.stores (g : Screen) (bs : List Byte) (l : Lcd) : Lcd := l.takesAll g (bs.map fun b => (true, b))

theorem Lcd.stores_cons (g : Screen) (b : Byte) (bs : List Byte) (l : Lcd) :
    l.stores g (b :: bs) = (l.takes g true b).stores g bs := rfl

section
variable (hbus : l.bus = .fourBit none) (hir : l.ir = none) (hptr : l.ptr = .cgram a)
include hbus hir hptr

/-- A controller in step with the pointer in CGRAM stores a data byte there. -/
theorem Lcd.takes_cgram (g : Screen) (b : Byte) : ∃ a' w n,
    l.takes g true b = { l with cgram := l.cgram.write a.toNat b, ptr := .cgram a', window := w, draws := n } ∧
    (l.shift = false → w = l.window) ∧
    (l.increment = true → a'.toNat = 8 * (a.toNat / 8) + min (a.toNat % 8 + 1) 7) := by
  obtain ⟨a', hnext, hrow⟩ := Lcd.nextPtr_cgram (l := { l with draws := l.draws + 1 }) g hptr
  rw [Lcd.takes_data _ _ _ hbus hir, Lcd.data_cgram (l := { l with draws := l.draws + 1 }) _ _ hptr, hnext]
  exact ⟨a', _, _, rfl, fun hs => if_neg (Bool.eq_false_iff.1 hs), hrow⟩

/-- Data bytes in CGRAM change nothing but CGRAM, the pointer within it and, with the shift bit, the display's position. -/
theorem Lcd.stores_cgram (g : Screen) (bs : List Byte) : ∃ c a' w n,
    l.stores g bs = { l with cgram := c, ptr := .cgram a', window := w, draws := n } ∧
    (l.shift = false → w = l.window) := by
  induction bs generalizing l a with
  | nil => exact ⟨l.cgram, a, l.window, l.draws, by rw [← hptr]; rfl, fun _ => rfl⟩
  | cons b bs ih =>
    obtain ⟨a', w, n, hstep, hw, -⟩ := Lcd.takes_cgram hbus hir hptr g b
    rw [Lcd.stores_cons, hstep]
    obtain ⟨c, a'', w', n', hrest, hw'⟩ := ih (l := { l with
      cgram := l.cgram.write a.toNat b, ptr := .cgram a', window := w, draws := n }) hbus hir rfl
    exact ⟨c, a'', w', n', hrest, fun hs => (hw' hs).trans (hw hs)⟩

/-- With increment, data bytes that fit into the glyph from the pointer's row on are its rows from there, and the pointer ends
after them, or at the last row. -/
theorem Lcd.stores_rows (g : Screen) (bs : List Byte) (hinc : l.increment = true) (hfit : a.toNat % 8 + bs.length ≤ 8) :
    (∃ a', (l.stores g bs).ptr = .cgram a' ∧
      a'.toNat = 8 * (a.toNat / 8) + min (a.toNat % 8 + bs.length) 7) ∧
    (∀ j < bs.length, (l.stores g bs).cgram.read (a.toNat + j) = bs[j]?) ∧
    ∀ k, k < a.toNat ∨ a.toNat + bs.length ≤ k → (l.stores g bs).cgram.read k = l.cgram.read k := by
  induction bs generalizing l a with
  | nil => exact ⟨⟨a, hptr, by rw [List.length_nil]; omega⟩, nofun, fun _ _ => rfl⟩
  | cons b bs ih =>
    obtain ⟨a', w, n, hstep, -, hrow⟩ := Lcd.takes_cgram hbus hir hptr g b
    have hnext := hrow hinc
    rw [List.length_cons] at hfit
    obtain ⟨⟨a'', hptr', hend⟩, hrows, hothers⟩ := ih (l := { l with
      cgram := l.cgram.write a.toNat b, ptr := .cgram a', window := w, draws := n }) hbus hir rfl hinc (by omega)
    rw [Lcd.stores_cons, hstep, List.length_cons]
    refine ⟨⟨a'', hptr', by omega⟩, fun j hj => ?_, fun k hk => ?_⟩
    · cases j with
      | zero =>
        rw [hothers _ (by omega)]
        exact Memory.read_write_same _ _ _
      | succ j =>
        rw [List.getElem?_cons_succ, ← hrows j (by omega)]
        congr 1
        omega
    · rw [hothers k (by omega)]
      exact Memory.read_write_other _ _ _ _ (by omega)
end

/-! What reaches the controller. -/

/-- The controller once it has executed the address command of an upload (30_encoding.md R116). -/
def Lcd.atGlyph (loc : Byte) (l : Lcd) : Lcd := { l with ptr := .cgram (loc.setWidth 3 ++ 0#3), draws := l.draws + 1 }

/-- A row of the glyph that the low three bits of a location number (20_memory.md R72). -/
theorem glyphAddr_toNat (loc : Byte) (row : BitVec 3) :
    (loc.setWidth 3 ++ row).toNat = 8 * (loc.toNat % 8) + row.toNat := by
  rw [toNat_append_add, BitVec.toNat_setWidth]
  omega

theorem glyphStart_toNat (loc : Byte) : (loc.setWidth 3 ++ 0#3).toNat = 8 * (loc.toNat % 8) := glyphAddr_toNat loc 0

/-- A display location that holds a glyph's number shows that glyph's rows (44_text_output.md R241 (a)). -/
theorem Lcd.dots_of_glyph {loc : Byte} {a : BitVec 7} (h : l.ddramAt a = .code (loc &&& 7)) (row : BitVec 3) :
    l.dots a row = (l.cgram.read (8 * (loc.toNat % 8) + row.toNat)).map fun b => b.setWidth 5 := by
  have hglyph : ∀ loc : Byte, (Cell.code (loc &&& 7)).glyph = some (loc.setWidth 3) := by decide
  have hlow : (fun b : Byte => b.extractLsb' 0 5) = fun b => b.setWidth 5 :=
    funext fun b => (BitVec.setWidth_eq_extractLsb' (by decide)).symm
  rw [Lcd.dots, h, hglyph, Option.bind_some, Lcd.glyphRow, glyphAddr_toNat, hlow]

/-- A controller in step takes an upload as its address command, and then the pattern's bytes (43_custom_char.md R230). -/
theorem exec_upload {loc : Byte} {pattern : List Byte} {rest : List Answer} {d : Nat} (h : InStep s)
    (hlen : pattern.length = 8) (hs : Serves 36 18 s rest d) : ∃ t, exec (.uploadCustomChar loc pattern) s = .next t ∧
      t.lcd = (s.lcd.atGlyph loc).stores s.screen pattern := by
  obtain ⟨hf, hm, -, hbus, hir⟩ := h
  have hlist := actionsOf_upload loc pattern (opStart (.uploadCustomChar loc pattern) s)
  obtain ⟨t, hexec, hran⟩ := exec_served (i := .uploadCustomChar loc pattern) (rest := rest) (d := d) rfl hf
    (inRange_of_ne_setCursor fun _ _ => nofun)
    (by rwa [hlist, asksOf_sends, waitsNeeded_sends, length_uploadBytes loc hlen])
  refine ⟨_, hexec, ?_⟩
  calc t.lcd = (board s.params s.screen (sends s.params s.bl (uploadBytes loc pattern)) (s.out, s.lcd)).2 :=
        hlist ▸ congrArg Prod.snd hran.board
    _ = (s.lcd.takes s.screen false (cbCgram loc)).stores s.screen pattern := board_sends hm _ _ _
    _ = _ := by rw [Lcd.takes_command _ _ _ (decode_cgram loc) _ hbus hir]; rfl

/-- Settles O43: the address command points at the glyph's first row, and the eight bytes fill the glyph from there. -/
theorem uploadStoresTheGlyph : Obligations.UploadStoresTheGlyph := by
  unfold Obligations.UploadStoresTheGlyph
  intro s loc pattern rest d h hlen hs
  have ⟨_, _, _, hbus, hir⟩ := h
  obtain ⟨t, hexec, hlcd⟩ := exec_upload (loc := loc) h hlen hs
  obtain ⟨c, a, w, n, hframe, hwindow⟩ := Lcd.stores_cgram (l := s.lcd.atGlyph loc) hbus hir rfl s.screen pattern
  have hsame := hlcd.trans hframe
  refine ⟨t, hexec, ?_, ?_, ?_, ?_, ?_, ?_, fun hinc => ?_⟩
  · rw [Synced, hsame]; exact ⟨hbus, hir⟩
  · rw [SameSettings, hsame]; exact ⟨rfl, rfl, rfl, rfl⟩
  · rw [hsame]; rfl
  · rw [hsame]; exact hwindow
  · rw [hsame]; exact fun _ => rfl
  · rw [hsame]; exact ⟨a, rfl⟩
  have hstored := Lcd.stores_rows (l := s.lcd.atGlyph loc) hbus hir rfl s.screen pattern hinc
    (by rw [glyphStart_toNat]; omega)
  rw [← hlcd, glyphStart_toNat, hlen] at hstored
  obtain ⟨⟨a', hptr, hend⟩, hrows, hothers⟩ := hstored
  refine ⟨⟨a', hptr, by omega⟩, hrows, hothers, fun a h row => ?_⟩
  rw [Lcd.dots_of_glyph h, hrows _ row.isLt]

end Sys2Proof.Machine
end

section
/-! PROOFS. WRITE_RAW and the pseudo-operation PRINT (44_text_output.md R240, R241, R246). WRITE_RAW sends one data byte; what an
operation that sends one byte does is said once (`exec_sends_byte`). PRINT is such operations issued one after the other, so the
controller takes its text as a list of data bytes, which in DDRAM are stored from the pointer on. -/

namespace Sys2Proof.Machine

variable {s t : State} {i : Instr} {l : Lcd} {a : BitVec 7} {row col : Byte} {rest : List Answer} {d : Nat}

/-! The operation. -/

/-- The legal words of WRITE_RAW are those of format `K` with nothing in the reserved fields (30_encoding.md R107). -/
theorem noOtherWord_writeRaw : NoOtherWord 0x13 fun w => ∃ code, w = packWord 0x13 0 0 code 0 :=
  noOtherWord_of_decode fun w i hop h => by
    have hdec : decodeRequest w = ifReserved (reservedK w) (.writeRaw (Word.c w)) := by
      rw [decodeRequest, hop]; rfl
    obtain ⟨hres, -⟩ := ifReserved_eq_ok_iff.1 (hdec.symm.trans h)
    exact ⟨_, Code.request.inj (encode_writeRaw_of_reserved hop hres).symm⟩

/-- Settles O27: format `K`, the state check, and the list of `actionsOf`. -/
theorem writeRawRule : Obligations.WriteRawRule := by
  unfold Obligations.WriteRawRule
  refine ⟨fun w code => decodeRequest_iff_of_encode rfl rfl w, noOtherWord_writeRaw, fun s code =>
    ⟨exec_notReady rfl, fun hf => ?_⟩⟩
  have hdoes := does_readyOp (i := .writeRaw code) (post := []) rfl hf (inRange_of_ne_setCursor fun _ _ => nofun)
    (List.append_nil _).symm
  rwa [show okEvents [] = [] from rfl, List.append_nil] at hdoes

/-- From `s` to `t` an operation has sent one byte, which the controller has taken, and has ended with `OK`. -/
structure Sent (rs : Bool) (v : Byte) (s t : State) : Prop where
  ended : Ended .ok s t
  life : SameLife s t
  lcd : t.lcd = s.lcd.takes s.screen rs v

theorem Sent.responses {rs : Bool} {v : Byte} (h : Sent rs v s t) : t.responses = s.responses ++ [.ok] := by
  obtain ⟨hresponses, -⟩ := h.ended
  exact hresponses

theorem Sent.screen {rs : Bool} {v : Byte} (h : Sent rs v s t) : t.screen = s.screen := by
  obtain ⟨-, -, hcols, hrows, -⟩ := h.life
  rw [State.screen, State.screen, hcols, hrows]

/-- An operation whose list is one byte sent, with all its list served. -/
theorem exec_sends_byte {rs bl : Bool} {v : Byte} (hi : isReadyOp i = true) (hf : s.fsm = .ready)
    (hm : s.params.masksWf = true) (hv : InRange i s) (hlist : actionsOf i (opStart i s) = send s.params bl v rs)
    (hs : Serves 4 2 s rest d) : ∃ t, exec i s = .next t ∧ Sent rs v s t ∧ t.answers = rest ∧ t.delays = d := by
  obtain ⟨ha, hd⟩ := hs
  have hplain := actionsOf_plain i (opStart i s) hi
  obtain ⟨t, hrun, hanswers, hdelays, hran⟩ := run_ok abortReady _ (opStart i s) rest d (plain_lifecycle _ hplain).2.2
    (by rwa [hlist]) (by rwa [hlist])
  have hboard : t.lcd = (board s.params s.screen (send s.params bl v rs) (s.out, s.lcd)).2 :=
    hlist ▸ congrArg Prod.snd hran.board
  refine ⟨respond .ok t, (exec_ready i s hi hf hv).trans (congrArg _ hrun), ⟨⟨?_, rfl, rfl, rfl⟩, hran.sameLife hplain, ?_⟩,
    hanswers, hdelays⟩
  · exact congrArg (· ++ [Response.ok]) hran.responses
  · exact hboard.trans (congrArg Prod.snd (board_send _ _ hm _ _ _ _))

/-! A data byte in DDRAM. -/

/-- Whatever the entry mode, the pointer stays in DDRAM; with increment it steps by one within a visible row. -/
theorem Lcd.nextPtr_ddram (g : Screen) (hptr : l.ptr = .ddram a) : ∃ a', l.nextPtr g = .ddram a' ∧
    (l.increment = true → sameRowNext g a = true → a' = a + 1) := by
  simp only [Lcd.nextPtr, hptr]
  split
  · exact ⟨a + 1, rfl, fun _ _ => rfl⟩
  · next hfixed => exact ⟨_, rfl, fun hinc hrow => absurd (Bool.and_eq_true_iff.2 ⟨hinc, hrow⟩) hfixed⟩

theorem Lcd.data_ddram (g : Screen) (b : Byte) (hptr : l.ptr = .ddram a) : l.data g b =
    { l with
      ddram := l.ddram.write a.toNat b
      ptr := l.nextPtr g
      window := if l.shift then Config.windowPos l.draws else l.window
      draws := l.draws + 1 } := by
  simp only [Lcd.data, hptr]

/-- A controller in step with the pointer in DDRAM stores a data byte there. -/
theorem Lcd.takes_ddram (hbus : l.bus = .fourBit none) (hir : l.ir = none) (hptr : l.ptr = .ddram a) (g : Screen)
    (b : Byte) : ∃ a' w n,
    l.takes g true b = { l with ddram := l.ddram.write a.toNat b, ptr := .ddram a', window := w, draws := n } ∧
    (l.increment = true → sameRowNext g a = true → a' = a + 1) := by
  obtain ⟨a', hnext, hstep⟩ := Lcd.nextPtr_ddram (l := { l with draws := l.draws + 1 }) g hptr
  rw [Lcd.takes_data _ _ _ hbus hir, Lcd.data_ddram (l := { l with draws := l.draws + 1 }) _ _ hptr, hnext]
  exact ⟨a', _, _, rfl, hstep⟩

/-- A byte stored in DDRAM stands at its address, and nothing else there changes (20_memory.md R71). -/
theorem Lcd.ddramAt_of_write {l l' : Lcd} {b : Byte} (hd : l'.ddram = l.ddram.write a.toNat b) (he : l'.emptied = l.emptied) :
    l'.ddramAt a = .code b ∧ ∀ a', a' ≠ a → l'.ddramAt a' = l.ddramAt a' := by
  constructor
  · rw [Lcd.ddramAt, hd, Memory.read_write_same]
  · intro a' hne
    rw [Lcd.ddramAt, Lcd.ddramAt, hd, he, Memory.read_write_other _ _ _ _ (mt BitVec.eq_of_toNat_eq hne)]

/-- Before the last column of a row of the handle's screen, the next address is in that row too. -/
theorem sameRowNext_of_legal (hg : legalGeometry s) (hr : row < s.rows) (hc : col.toNat + 1 < s.cols.toNat) :
    sameRowNext s.screen (screenAddr row col) = true := by
  obtain ⟨hcols, hrows, -⟩ := hg
  have h4 : s.rows ≤ 4 := by rcases hrows with h | h | h <;> rw [h] <;> decide
  exact sameRowNext_screenAddr s.screen row col hcols hr h4 hc

/-- With increment, a data byte in CGRAM moves the pointer to the glyph's next row, and at the last leaves it there. -/
theorem Lcd.nextPtr_cgram_of_increment {a : BitVec 6} (g : Screen) (hptr : l.ptr = .cgram a) (hinc : l.increment = true) :
    l.nextPtr g = .cgram (if a.extractLsb' 0 3 = 7 then a else a + 1) := by
  simp only [Lcd.nextPtr, hptr, hinc, if_true]
  exact (apply_ite Ptr.cgram _ _ _).symm

/-- Settles O42: the byte is one data byte at the controller, by the memory the pointer points into. -/
theorem writeRawStores : Obligations.WriteRawStores := by
  unfold Obligations.WriteRawStores
  intro s code rest d h hs
  obtain ⟨hf, hm, -, hbus, hir⟩ := h
  obtain ⟨t, hexec, hsent, -, -⟩ := exec_sends_byte (i := .writeRaw code) rfl hf hm
    (inRange_of_ne_setCursor fun _ _ => nofun) rfl hs
  obtain ⟨hb, hi, htwo, hfont, hdc, hinc, hshift, -, hwindow, hptr⟩ :=
    Lcd.data_frame s.screen code { s.lcd with draws := s.lcd.draws + 1 }
  rw [← Lcd.takes_data _ _ _ hbus hir, ← hsent.lcd] at hb hi htwo hfont hdc hinc hshift hwindow hptr
  refine ⟨t, hexec, ⟨hb.trans hbus, hi.trans hir⟩, ⟨htwo, hfont, hinc, hshift⟩, hdc, hwindow, fun a ha => ?_,
    fun a ha => ?_⟩
  · obtain ⟨a', w, n, hstored, hnext⟩ := Lcd.takes_ddram hbus hir ha s.screen code
    have hlcd := hsent.lcd.trans hstored
    obtain ⟨hsame, hothers⟩ := Lcd.ddramAt_of_write (l := s.lcd) (l' := t.lcd) (a := a) (b := code) (by rw [hlcd])
      (by rw [hlcd])
    refine ⟨hsame, hothers, fun k => by rw [hlcd], ⟨a', congrArg Lcd.ptr hlcd⟩, fun row col hinc hg hr hc hpos => ?_⟩
    rw [hlcd, hnext hinc (hpos ▸ sameRowNext_of_legal hg hr hc)]
  · obtain ⟨a', w, n, hstored, -, -⟩ := Lcd.takes_cgram hbus hir ha s.screen code
    have hlcd := hsent.lcd.trans hstored
    have hcgram : t.lcd.cgram = s.lcd.cgram.write a.toNat code := congrArg Lcd.cgram hlcd
    refine ⟨by rw [hcgram, Memory.read_write_same], fun k hk => by rw [hcgram, Memory.read_write_other _ _ _ _ hk],
      fun a' => by rw [hlcd]; rfl, ⟨a', congrArg Lcd.ptr hlcd⟩, fun hinc => ?_⟩
    exact hptr.trans (Lcd.nextPtr_cgram_of_increment s.screen ha hinc)

/-! Data bytes in DDRAM at addresses that follow one another. -/

/-- Data bytes in DDRAM change nothing but DDRAM, the pointer within it and the display's position. -/
theorem Lcd.stores_ddram (hbus : l.bus = .fourBit none) (hir : l.ir = none) (hptr : l.ptr = .ddram a) (g : Screen)
    (bs : List Byte) : ∃ m a' w n, l.stores g bs = { l with ddram := m, ptr := .ddram a', window := w, draws := n } := by
  induction bs generalizing l a with
  | nil => exact ⟨l.ddram, a, l.window, l.draws, by rw [← hptr]; rfl⟩
  | cons b bs ih =>
    obtain ⟨a', w, n, hstep, -⟩ := Lcd.takes_ddram hbus hir hptr g b
    rw [Lcd.stores_cons, hstep]
    exact ih (l := { l with ddram := l.ddram.write a.toNat b, ptr := .ddram a', window := w, draws := n }) hbus hir rfl

theorem add_one_add_ofNat (a : BitVec 7) (k : Nat) : a + 1 + BitVec.ofNat 7 k = a + BitVec.ofNat 7 (k + 1) := by
  rw [BitVec.ofNat_add, BitVec.add_assoc, BitVec.add_comm 1]
  rfl

/-- With increment, data bytes at addresses that follow one another in a visible row are stored one after the other; where the
pointer stands after the last does not matter. -/
theorem Lcd.stores_successive (g : Screen) (bs : List Byte) (hbus : l.bus = .fourBit none) (hir : l.ir = none)
    (hinc : l.increment = true) (hptr : bs ≠ [] → l.ptr = .ddram a) (hlen : bs.length ≤ 128)
    (hrow : ∀ k, k + 1 < bs.length → sameRowNext g (a + BitVec.ofNat 7 k) = true) :
    (∀ k, (h : k < bs.length) → (l.stores g bs).ddramAt (a + BitVec.ofNat 7 k) = .code bs[k]) ∧
    ∀ a', (∀ k < bs.length, a' ≠ a + BitVec.ofNat 7 k) → (l.stores g bs).ddramAt a' = l.ddramAt a' := by
  induction bs generalizing l a with
  | nil => exact ⟨nofun, fun _ _ => rfl⟩
  | cons b bs ih =>
    rw [List.length_cons] at hlen hrow
    obtain ⟨a', w, n, hstep, hnext⟩ := Lcd.takes_ddram hbus hir (hptr (List.cons_ne_nil _ _)) g b
    have hptr' : bs ≠ [] → (l.takes g true b).ptr = .ddram (a + 1) := fun hne => by
      have hpos := List.length_pos_of_ne_nil hne
      rw [hstep, hnext hinc (by simpa using hrow 0 (by omega))]
    obtain ⟨hrun, hothers⟩ := ih (l := l.takes g true b) (a := a + 1) (by rw [hstep]; exact hbus) (by rw [hstep]; exact hir)
      (by rw [hstep]; exact hinc) hptr' (by omega) (fun k hk => by rw [add_one_add_ofNat]; exact hrow (k + 1) (by omega))
    obtain ⟨hsame, hkept⟩ := Lcd.ddramAt_of_write (l := l) (l' := l.takes g true b) (a := a) (b := b) (by rw [hstep])
      (by rw [hstep])
    simp only [add_one_add_ofNat] at hrun hothers
    rw [Lcd.stores_cons]
    refine ⟨fun k hk => ?_, fun a'' hfar => ?_⟩
    · cases k with
      | zero =>
        rw [BitVec.add_zero, hothers a fun k hk => ?_]
        · exact hsame
        · bv_omega
      | succ k => exact hrun k (Nat.lt_of_succ_lt_succ hk)
    · rw [hothers a'' fun k hk => hfar (k + 1) (Nat.succ_lt_succ hk)]
      exact hkept a'' (by simpa using hfar 0 (Nat.succ_pos _))

/-! Requests issued one after the other. -/

theorem isRequest_of_isReadyOp (hi : isReadyOp i = true) : i.isRequest = true := by
  simp only [isReadyOp, Bool.and_eq_true] at hi
  obtain ⟨⟨hreq, -⟩, -⟩ := hi
  exact hreq

theorem encode_eq_encodeRequest (hi : i.isRequest = true) : encode i = .request (encodeRequest i) := by
  unfold encodeRequest
  cases i
  case lcdClear | lcdHome | lcdEntryMode | lcdDisplayControl | lcdShift | lcdFunctionSet | lcdSetCgramAddr |
      lcdSetDdramAddr => cases hi
  all_goals rfl

/-- The block executes the request that the host encodes. -/
theorem accept_encodeRequest (hi : i.isRequest = true) (hwf : i.wf = true) (s : State) :
    accept (encodeRequest i) s = exec i { s with req := encodeRequest i, busy := true } := by
  rw [accept, decodeRequest_of_encode hwf (encode_eq_encodeRequest hi)]

/-- The host goes on after an `OK`, and stops at any other response (44_text_output.md R244). -/
theorem issueAll_cons {is : List Instr} {r : Response} (hi : i.isRequest = true) (hwf : i.wf = true)
    (hexec : exec i { s with req := encodeRequest i, busy := true } = .next t) (hend : Ended r s t) :
    issueAll (i :: is) s = if r = .ok then issueAll is t else .finished r t := by
  obtain ⟨hresponses, hidle, -, -⟩ := hend
  simp only [issueAll, accept_encodeRequest hi hwf, hexec, hidle, hresponses, List.getLast?_concat]
  cases r <;> rfl

/-- Settles O47: SET_CURSOR is turned away, and the host issues nothing after it. -/
theorem printInvalidWritesNothing : Obligations.PrintInvalidWritesNothing := by
  unfold Obligations.PrintInvalidWritesNothing
  intro s text row col hf hout
  have hexec := exec_setCursor_invalid (s := { s with req := encodeRequest (.setCursor row col), busy := true }) hf hout
  exact ⟨_, issueAll_cons rfl rfl hexec ⟨rfl, rfl, rfl, rfl⟩, rfl, ⟨rfl, rfl⟩, rfl, rfl⟩

/-- What is served to several requests serves the first, and leaves what serves the others. -/
theorem Serves.split {n n' m m' : Nat} (h : Serves (n + n') (m + m') s rest d) :
    Serves n m s (List.replicate n' .ok ++ rest) (m' + d) := by
  obtain ⟨ha, hd⟩ := h
  exact ⟨by rw [ha, ← List.append_assoc, List.replicate_append_replicate], by omega⟩

/-- The host goes on after a request whose operation sends one byte, all of it served. -/
theorem issueAll_sends_byte {is : List Instr} {rs : Bool} {v : Byte} {n m : Nat} (hi : isReadyOp i = true)
    (hwf : i.wf = true) (hf : s.fsm = .ready) (hm : s.params.masksWf = true) (hv : InRange i s)
    (hlist : ∀ s, actionsOf i (opStart i s) = send s.params (blAfter i s) v rs) (hs : Serves (4 + n) (2 + m) s rest d) :
    ∃ t, issueAll (i :: is) s = issueAll is t ∧ Sent rs v s t ∧ Serves n m t rest d := by
  obtain ⟨t, hexec, hsent, hanswers, hdelays⟩ :=
    exec_sends_byte (s := { s with req := encodeRequest i, busy := true }) hi hf hm hv (hlist _) hs.split
  obtain ⟨hended, hlife, hlcd⟩ := hsent
  exact ⟨t, issueAll_cons (isRequest_of_isReadyOp hi) hwf hexec hended, ⟨hended, hlife, hlcd⟩, hanswers, hdelays⟩

/-- A text issued as WRITE_RAW requests reaches the controller as its bytes, in order (44_text_output.md R244). -/
theorem issueAll_writeRaw (text : List Byte) (hf : s.fsm = .ready) (hm : s.params.masksWf = true)
    (hs : Serves (4 * text.length) (2 * text.length) s rest d) : ∃ t, issueAll (text.map .writeRaw) s = .finished .ok t ∧
      t.responses = s.responses ++ List.replicate text.length .ok ∧ t.lcd = s.lcd.stores s.screen text := by
  induction text generalizing s with
  | nil => exact ⟨s, rfl, (List.append_nil _).symm, rfl⟩
  | cons b text ih =>
    rw [List.length_cons, Nat.mul_add_one, Nat.mul_add_one, Nat.add_comm _ 4, Nat.add_comm _ 2] at hs
    obtain ⟨u, hissue, hsent, hs'⟩ := issueAll_sends_byte (is := text.map .writeRaw) (i := .writeRaw b) rfl rfl hf hm
      (inRange_of_ne_setCursor fun _ _ => nofun) (fun _ => rfl) hs
    obtain ⟨hfsm, -, -, -, -, hparams, -, -⟩ := hsent.life
    obtain ⟨t, hfinish, hresponses, hlcd⟩ := ih (hfsm.trans hf) (hparams ▸ hm) hs'
    refine ⟨t, hissue.trans hfinish, ?_, ?_⟩
    · rw [hresponses, hsent.responses, List.append_assoc, List.length_cons, List.replicate_succ]
      rfl
    · rw [hlcd, hsent.lcd, hsent.screen, Lcd.stores_cons]

/-! PRINT. -/

/-- The address of a screen position is that of its set-address command (20_memory.md R71). -/
theorem screenAddr_of_decode (h : decodeCommand (cbDdram row col) = .ok (.lcdSetDdramAddr a)) : screenAddr row col = a := by
  have hb : (1#1 ++ a : Byte) = cbDdram row col := Code.command.inj (encode_of_decodeCommand h).2
  rw [screenAddr, ← cbDdram, ← hb]
  exact BitVec.extractLsb'_append_eq_right

/-- Columns that follow one another have addresses that do. -/
theorem screenAddr_add_ofNat (row col : Byte) (k : Nat) :
    screenAddr row (col + BitVec.ofNat 8 k) = screenAddr row col + BitVec.ofNat 7 k := by
  unfold screenAddr
  rw [← BitVec.setWidth_eq_extractLsb' (by decide), ← BitVec.setWidth_eq_extractLsb' (by decide)]
  bv_omega

/-- The controller once it has executed the address command of a screen position (30_encoding.md R117). -/
def Lcd.atPosition (row col : Byte) (l : Lcd) : Lcd := { l with ptr := .ddram (screenAddr row col), draws := l.draws + 1 }

/-- A PRINT inside the screen ends `OK`, and reaches a controller in step as its address command and then its text. -/
theorem issue_print {text : List Byte} (h : InStep s) (hg : legalGeometry s) (hr : row < s.rows) (hc : col < s.cols)
    (hs : Serves (4 + 4 * text.length) (2 + 2 * text.length) s rest d) :
    ∃ t, issue (.print text row col) s = .finished .ok t ∧
      t.responses = s.responses ++ List.replicate (1 + text.length) .ok ∧
      t.lcd = (s.lcd.atPosition row col).stores s.screen text := by
  obtain ⟨hf, hm, -, hbus, hir⟩ := h
  obtain ⟨u, hissue, hsent, hs'⟩ := issueAll_sends_byte (is := text.map .writeRaw) (i := .setCursor row col) rfl rfl hf hm
    (inRange_setCursor hc hr) (fun _ => rfl) hs
  obtain ⟨hfsm, -, -, -, -, hparams, -, -⟩ := hsent.life
  obtain ⟨t, hfinish, hresponses, hlcd⟩ := issueAll_writeRaw text (hfsm.trans hf) (hparams ▸ hm) hs'
  have hdec := decode_ddram_of_legal hg hr hc
  rw [← screenAddr_of_decode hdec] at hdec
  refine ⟨t, hissue.trans hfinish, ?_, ?_⟩
  · rw [hresponses, hsent.responses, List.append_assoc, Nat.add_comm 1, List.replicate_succ]
    rfl
  · rw [hlcd, hsent.lcd, hsent.screen, Lcd.takes_command _ _ _ hdec _ hbus hir]
    rfl

/-- Settles O46: SET_CURSOR points at the position, and the text's bytes are stored from there on. -/
theorem printShowsTheText : Obligations.PrintShowsTheText := by
  unfold Obligations.PrintShowsTheText
  intro s text row col rest d h hg hr hc hfit hs
  have ⟨_, _, _, hbus, hir⟩ := h
  obtain ⟨t, hissue, hresponses, hlcd⟩ := issue_print h hg hr hc hs
  obtain ⟨m, a, w, n, hframe⟩ := Lcd.stores_ddram (l := s.lcd.atPosition row col) hbus hir rfl s.screen text
  have hsame := hlcd.trans hframe
  refine ⟨t, hissue, ?_, hresponses, ?_, fun hinc => ?_⟩
  · rw [Synced, hsame]; exact ⟨hbus, hir⟩
  · rw [hsame]; exact fun _ => rfl
  have ⟨hcols, _, _⟩ := hg
  have hwide : s.cols.toNat ≤ 20 := by rcases hcols with h | h <;> rw [h] <;> decide
  have hrow : ∀ k, k + 1 < text.length → sameRowNext s.screen (screenAddr row col + BitVec.ofNat 7 k) = true := by
    intro k hk
    rw [← screenAddr_add_ofNat]
    exact sameRowNext_of_legal hg hr (by rw [BitVec.toNat_add, BitVec.toNat_ofNat]; omega)
  have hstored := Lcd.stores_successive (l := s.lcd.atPosition row col) s.screen text hbus hir hinc (fun _ => rfl) (by omega)
    hrow
  simp only [← screenAddr_add_ofNat, ← hlcd] at hstored
  exact hstored

end Sys2Proof.Machine
end

section
/-! PROOFS. The backlight, display, cursor and blink operations (45_toggles.md R260 to R276). Each writes one mirrored bit and then
runs a list built from the state after that write. What becomes of the mirror is said once for all twelve and every outcome
(`exec_mirror`); what the list sends and what the board makes of it, once for the nine that re-send `S.dc` and once for the three of
the backlight. -/

namespace Sys2Proof.Machine

variable {s t u : State} {i j : Instr}

/-! The operations and their words. -/

/-- The operations that write `S.bl` (45_toggles.md R262 to R264). -/
def backlightOps : List Instr := [.backlightOn, .backlightOff, .backlightToggle]

/-- The operations that write a bit of `S.dc` (45_toggles.md R266 to R274). -/
def dcOps : List Instr :=
  [.displayOn, .displayOff, .displayToggle, .cursorOn, .cursorOff, .cursorToggle, .blinkOn, .blinkOff, .blinkToggle]

/-- The twelve operations of the group (30_encoding.md R106). -/
def toggleOps : List Instr := backlightOps ++ dcOps

/-- The opcodes of the twelve operations (30_encoding.md R105, R106). -/
def toggleTable : List (Byte × Instr) :=
  [(0x20, .backlightOn), (0x21, .backlightOff), (0x22, .backlightToggle),
   (0x24, .displayOn), (0x25, .displayOff), (0x26, .displayToggle),
   (0x28, .cursorOn), (0x29, .cursorOff), (0x2A, .cursorToggle),
   (0x2C, .blinkOn), (0x2D, .blinkOff), (0x2E, .blinkToggle)]

theorem decodeRequest_of_toggleTable {op : Byte} (h : (op, i) ∈ toggleTable) {v : Word} (hop : Word.op v = op) :
    decodeRequest v = ifReserved (reservedN v) i := by
  rw [decodeRequest, hop]
  fin_cases h <;> rfl

/-- Each of the twelve has one word, of format `N` (30_encoding.md R101). -/
theorem oneWord_of_toggleTable {op : Byte} (h : (op, i) ∈ toggleTable) : OneWord op (packN op) i := by
  have htable : ∀ x ∈ toggleTable, x.2.wf = true ∧ encode x.2 = .request (packN x.1) := by decide
  obtain ⟨hwf, henc⟩ := htable _ h
  exact oneWord_of_formatN hwf henc fun v hop => decodeRequest_of_toggleTable h hop

theorem mem_toggleOps_of_backlight (hi : i ∈ backlightOps) : i ∈ toggleOps := List.mem_append_left _ hi
theorem mem_toggleOps_of_dc (hi : i ∈ dcOps) : i ∈ toggleOps := List.mem_append_right _ hi

theorem isReadyOp_of_toggle (hi : i ∈ toggleOps) : isReadyOp i = true := by
  revert i; decide

theorem inRange_of_toggle (hi : i ∈ toggleOps) : InRange i s :=
  inRange_of_ne_setCursor fun row col h => by rw [h] at hi; simp [toggleOps, backlightOps, dcOps] at hi

theorem actionsOf_backlight (hi : i ∈ backlightOps) (s : State) : actionsOf i s = blApplyActions s := by
  fin_cases hi <;> rfl

theorem actionsOf_dc (hi : i ∈ dcOps) (s : State) : actionsOf i s = dispctlActions s := by
  fin_cases hi <;> rfl

/-- The backlight operations leave `S.dc`. -/
theorem dcAfter_backlight (hi : i ∈ backlightOps) (s : State) : dcAfter i s = s.dc :=
  dcAfter_eq fun h => by revert i; decide

/-- The display, cursor and blink operations leave `S.bl`. -/
theorem blAfter_dc (hi : i ∈ dcOps) (s : State) : blAfter i s = s.bl :=
  blAfter_eq fun h => by revert i; decide

/-! The bits of `S.dc` (10_state.md R36). -/

theorem getLsbD_dcSetDisplay (on : Bool) (dc : BitVec 3) : (dcSetDisplay on dc).getLsbD 2 = on := by
  revert on dc; decide
theorem getLsbD_dcSetCursor (on : Bool) (dc : BitVec 3) : (dcSetCursor on dc).getLsbD 1 = on := by
  revert on dc; decide
theorem getLsbD_dcSetBlink (on : Bool) (dc : BitVec 3) : (dcSetBlink on dc).getLsbD 0 = on := by
  revert on dc; decide

/-- A bit toggled twice is what it was. -/
theorem dcSetDisplay_toggle_toggle (dc : BitVec 3) :
    dcSetDisplay (!(dcSetDisplay (!dc.getLsbD 2) dc).getLsbD 2) (dcSetDisplay (!dc.getLsbD 2) dc) = dc := by
  revert dc; decide
theorem dcSetCursor_toggle_toggle (dc : BitVec 3) :
    dcSetCursor (!(dcSetCursor (!dc.getLsbD 1) dc).getLsbD 1) (dcSetCursor (!dc.getLsbD 1) dc) = dc := by
  revert dc; decide
theorem dcSetBlink_toggle_toggle (dc : BitVec 3) :
    dcSetBlink (!(dcSetBlink (!dc.getLsbD 0) dc).getLsbD 0) (dcSetBlink (!dc.getLsbD 0) dc) = dc := by
  revert dc; decide

theorem dcSetDisplay_eq_append (on : Bool) (dc : BitVec 3) :
    dcSetDisplay on dc = BitVec.ofBool on ++ dc.extractLsb' 0 2 := by revert on dc; decide
theorem dcSetCursor_eq_append (on : Bool) (dc : BitVec 3) :
    dcSetCursor on dc = dc.extractLsb' 2 1 ++ (BitVec.ofBool on ++ dc.extractLsb' 0 1) := by revert on dc; decide
theorem dcSetBlink_eq_append (on : Bool) (dc : BitVec 3) :
    dcSetBlink on dc = dc.extractLsb' 1 2 ++ BitVec.ofBool on := by revert on dc; decide

/-- A toggled bit is the complement of what it was. -/
theorem ofBool_not_getLsbD {w : Nat} (v : BitVec w) (k : Nat) :
    BitVec.ofBool (!v.getLsbD k) = ~~~v.extractLsb' k 1 := by
  ext n hn
  obtain rfl : n = 0 := by omega
  simp

/-! What an operation does. -/

theorem exec_toggle (hi : i ∈ toggleOps) (hf : s.fsm = .ready) :
    exec i s = .next (run abortReady (actionsOf i (opStart i s)) (opStart i s)) :=
  exec_ready i s (isReadyOp_of_toggle hi) hf (inRange_of_toggle hi)

/-- Two operations that write the same mirror and then run the same list are one (45_toggles.md R260). -/
theorem exec_eq_of_after (hi : i ∈ toggleOps) (hj : j ∈ toggleOps) (hf : s.fsm = .ready)
    (hlist : ∀ s, actionsOf i s = actionsOf j s) (hbl : blAfter i s = blAfter j s) (hdc : dcAfter i s = dcAfter j s) :
    exec i s = exec j s := by
  rw [exec_toggle hi hf, exec_toggle hj hf, hlist, opStart, opStart, hbl, hdc]

theorem exec_eq_of_blAfter (hi : i ∈ backlightOps) (hj : j ∈ backlightOps) (hf : s.fsm = .ready)
    (h : blAfter i s = blAfter j s) : exec i s = exec j s :=
  exec_eq_of_after (mem_toggleOps_of_backlight hi) (mem_toggleOps_of_backlight hj) hf
    (fun s => by rw [actionsOf_backlight hi, actionsOf_backlight hj]) h
    (by rw [dcAfter_backlight hi, dcAfter_backlight hj])

theorem exec_eq_of_dcAfter (hi : i ∈ dcOps) (hj : j ∈ dcOps) (hf : s.fsm = .ready) (h : dcAfter i s = dcAfter j s) :
    exec i s = exec j s :=
  exec_eq_of_after (mem_toggleOps_of_dc hi) (mem_toggleOps_of_dc hj) hf
    (fun s => by rw [actionsOf_dc hi, actionsOf_dc hj]) (by rw [blAfter_dc hi, blAfter_dc hj]) h

/-- The list of a backlight operation leaves what R265 says. -/
theorem okEvents_blApplyActions (s : State) : okEvents (blApplyActions s) = backlightTrace s.params s.bl s.dc := by
  unfold blApplyActions backlightTrace
  cases s.params.blApply with
  | resendDc => exact okEvents_send _ _ _ _
  | bareWrite => rfl
  | none => rfl

/-- A list of a backlight operation that writes nothing is empty. -/
theorem blApplyActions_eq_nil (h : writesOf (okEvents (blApplyActions s)) = []) : blApplyActions s = [] := by
  unfold blApplyActions at h ⊢
  cases hb : s.params.blApply with
  | resendDc | bareWrite => rw [hb] at h; cases h
  | none => rfl

theorem okEvents_backlight (hi : i ∈ backlightOps) :
    okEvents (actionsOf i (opStart i s)) = backlightTrace s.params (blAfter i s) s.dc := by
  rw [actionsOf_backlight hi, okEvents_blApplyActions, opStart, dcAfter_backlight hi]

theorem does_backlight (hi : i ∈ backlightOps) (hf : s.fsm = .ready) :
    Does i (blAfter i s) s.dc (backlightTrace s.params (blAfter i s) s.dc) s := by
  have hop := mem_toggleOps_of_backlight hi
  have hdoes := does_of_actions i (blAfter i s) (dcAfter i s) _ s (exec_toggle hop hf)
    (actionsOf_plain i _ (isReadyOp_of_toggle hop)) fun h => by
      rw [actionsOf_backlight hi] at h ⊢
      exact blApplyActions_eq_nil h
  rwa [okEvents_backlight hi, dcAfter_backlight hi] at hdoes

/-- An operation whose list is one byte sent does the events of that byte. -/
theorem does_sends_byte {p : Params} {bl rs : Bool} {v : Byte} (hi : isReadyOp i = true) (hf : s.fsm = .ready)
    (hv : InRange i s) (hlist : actionsOf i (opStart i s) = send p bl v rs) :
    Does i (blAfter i s) (dcAfter i s) (sendTrace p bl v rs) s := by
  have hdoes := does_readyOp (post := []) hi hf hv (hlist.trans (List.append_nil _).symm)
  rwa [show okEvents [] = [] from rfl, List.append_nil] at hdoes

/-- The list of a display, cursor or blink operation sends the whole of the new `S.dc` (45_toggles.md R275). -/
theorem actionsOf_dc_opStart (hi : i ∈ dcOps) :
    actionsOf i (opStart i s) = send s.params s.bl (cbDispctl s.params (dcAfter i s)) false := by
  rw [actionsOf_dc hi, dispctlActions, opStart, blAfter_dc hi]

theorem does_dc {dc : BitVec 3} (hi : i ∈ dcOps) (hf : s.fsm = .ready) (hdc : dcAfter i s = dc) :
    Does i s.bl dc (sendTrace s.params s.bl (dispctlByte s.params dc) false) s := by
  have hop := mem_toggleOps_of_dc hi
  have hdoes := does_sends_byte (isReadyOp_of_toggle hop) hf (inRange_of_toggle hop) (actionsOf_dc_opStart hi)
  rwa [blAfter_dc hi, hdc] at hdoes

/-- Settles O29: format `N`, the list of R265, and the toggle by the bit it reads. -/
theorem backlightRules : Obligations.BacklightRules := by
  unfold Obligations.BacklightRules
  refine ⟨oneWord_of_toggleTable (by decide), oneWord_of_toggleTable (by decide), oneWord_of_toggleTable (by decide),
    fun s hf => ⟨does_backlight (i := .backlightOn) (by decide) hf, does_backlight (i := .backlightOff) (by decide) hf,
      does_backlight (i := .backlightToggle) (by decide) hf, ?_⟩⟩
  cases hbl : s.bl with
  | true => exact exec_eq_of_blAfter (by decide) (by decide) hf (by simp [blAfter, hbl])
  | false => exact exec_eq_of_blAfter (by decide) (by decide) hf (by simp [blAfter, hbl])

/-- The three operations of one bit of `S.dc`, from what they write there: `dc b` is `S.dc` with the bit at `b`. -/
theorem dc_target_rules {on off toggle : Instr} {k : Nat} {dc : BitVec 1 → BitVec 3} (hon : on ∈ dcOps) (hoff : off ∈ dcOps)
    (htoggle : toggle ∈ dcOps) (hset : dcAfter on s = dc 1) (hclear : dcAfter off s = dc 0)
    (hflip : dcAfter toggle s = dc (~~~s.dc.extractLsb' k 1)) (hf : s.fsm = .ready) :
    let tr := fun b : BitVec 1 => sendTrace s.params s.bl (dispctlByte s.params (dc b)) false
    Does on s.bl (dc 1) (tr 1) s ∧ Does off s.bl (dc 0) (tr 0) s ∧
    Does toggle s.bl (dc (~~~s.dc.extractLsb' k 1)) (tr (~~~s.dc.extractLsb' k 1)) s ∧
    exec toggle s = exec (if s.dc.getLsbD k then off else on) s := by
  refine ⟨does_dc hon hf hset, does_dc hoff hf hclear, does_dc htoggle hf hflip, ?_⟩
  rw [← ofBool_not_getLsbD] at hflip
  cases hbit : s.dc.getLsbD k with
  | true => exact exec_eq_of_dcAfter htoggle hoff hf ((hbit ▸ hflip).trans hclear.symm)
  | false => exact exec_eq_of_dcAfter htoggle hon hf ((hbit ▸ hflip).trans hset.symm)

/-- Settles O30: format `N`, and the three operations of `S.dc[2]`. -/
theorem displayRules : Obligations.DisplayRules := by
  unfold Obligations.DisplayRules
  refine ⟨oneWord_of_toggleTable (by decide), oneWord_of_toggleTable (by decide), oneWord_of_toggleTable (by decide),
    fun s hf => dc_target_rules (dc := fun b => b ++ s.dc.extractLsb' 0 2) (by decide) (by decide) (by decide)
      (dcSetDisplay_eq_append true s.dc) (dcSetDisplay_eq_append false s.dc) ?_ hf⟩
  rw [dcAfter, dcSetDisplay_eq_append, ofBool_not_getLsbD]

/-- Settles O31: format `N`, and the three operations of `S.dc[1]`. -/
theorem cursorRules : Obligations.CursorRules := by
  unfold Obligations.CursorRules
  refine ⟨oneWord_of_toggleTable (by decide), oneWord_of_toggleTable (by decide), oneWord_of_toggleTable (by decide),
    fun s hf => dc_target_rules (dc := fun b => s.dc.extractLsb' 2 1 ++ (b ++ s.dc.extractLsb' 0 1)) (by decide)
      (by decide) (by decide) (dcSetCursor_eq_append true s.dc) (dcSetCursor_eq_append false s.dc) ?_ hf⟩
  rw [dcAfter, dcSetCursor_eq_append, ofBool_not_getLsbD]

/-- Settles O32: format `N`, and the three operations of `S.dc[0]`. -/
theorem blinkRules : Obligations.BlinkRules := by
  unfold Obligations.BlinkRules
  refine ⟨oneWord_of_toggleTable (by decide), oneWord_of_toggleTable (by decide), oneWord_of_toggleTable (by decide),
    fun s hf => dc_target_rules (dc := fun b => s.dc.extractLsb' 1 2 ++ b) (by decide) (by decide) (by decide)
      (dcSetBlink_eq_append true s.dc) (dcSetBlink_eq_append false s.dc) ?_ hf⟩
  rw [dcAfter, dcSetBlink_eq_append, ofBool_not_getLsbD]

/-! Round trips: what the mirror is after an operation, in every outcome (45_toggles.md R261, R276). -/

theorem blAfter_congr (h : t.bl = u.bl) : blAfter i t = blAfter i u := by
  unfold blAfter
  rw [h]

theorem dcAfter_congr (h : t.dc = u.dc) : dcAfter i t = dcAfter i u := by
  unfold dcAfter
  rw [h]

/-- The mirror has the new bit in every outcome, complete, aborted or in flight: there is no rollback (45_toggles.md R261). -/
theorem exec_mirror (hi : i ∈ toggleOps) (hf : s.fsm = .ready) (h : exec i s = .next t) :
    t.fsm = .ready ∧ t.bl = blAfter i s ∧ t.dc = dcAfter i s := by
  obtain ⟨⟨hfsm, -⟩, -, -, -, hbl, hdc⟩ :=
    run_plain_spares (s := opStart i s) (actionsOf_plain i (opStart i s) (isReadyOp_of_toggle hi)) rfl rfl
  obtain rfl : _ = t := Host.Outcome.next.inj ((exec_toggle hi hf).symm.trans h)
  exact ⟨hfsm.trans hf, hbl, hdc⟩

/-- The second of two operations reads the mirror that the first has written. -/
theorem exec_exec_mirror (hi : i ∈ toggleOps) (hj : j ∈ toggleOps) (hf : s.fsm = .ready) (h : exec i s = .next t)
    (h' : exec j t = .next u) : u.bl = blAfter j (opStart i s) ∧ u.dc = dcAfter j (opStart i s) := by
  obtain ⟨hf', hbl, hdc⟩ := exec_mirror hi hf h
  obtain ⟨-, hbl', hdc'⟩ := exec_mirror hj hf' h'
  exact ⟨hbl'.trans (blAfter_congr hbl), hdc'.trans (dcAfter_congr hdc)⟩

/-- Settles O33: the mirror after the first operation is what the second reads, and each bit is what the second writes. -/
theorem toggleRoundTrips : Obligations.ToggleRoundTrips := by
  unfold Obligations.ToggleRoundTrips
  intro s t u i j hf h _ h'
  have hbl : i ∈ toggleOps → j ∈ toggleOps → u.bl = blAfter j (opStart i s) := fun hi hj =>
    (exec_exec_mirror hi hj hf h h').1
  have hdc : i ∈ toggleOps → j ∈ toggleOps → u.dc = dcAfter j (opStart i s) := fun hi hj =>
    (exec_exec_mirror hi hj hf h h').2
  refine ⟨?toggleBl, ?toggleDc, ?_, ?_, ?_, ?_, ?_, ?_, ?_, ?_⟩
  case toggleBl =>
    rintro ⟨⟩
    exact ⟨(hbl (by decide) (by decide)).trans (Bool.not_not _), hdc (by decide) (by decide)⟩
  case toggleDc =>
    simp only [List.mem_cons, List.not_mem_nil, or_false]
    rintro (⟨⟨⟩⟩ | ⟨⟨⟩⟩ | ⟨⟨⟩⟩)
    · exact ⟨(hdc (by decide) (by decide)).trans (dcSetDisplay_toggle_toggle _), hbl (by decide) (by decide)⟩
    · exact ⟨(hdc (by decide) (by decide)).trans (dcSetCursor_toggle_toggle _), hbl (by decide) (by decide)⟩
    · exact ⟨(hdc (by decide) (by decide)).trans (dcSetBlink_toggle_toggle _), hbl (by decide) (by decide)⟩
  all_goals
    rintro ⟨⟩
    simp only [hbl (by decide) (by decide), hdc (by decide) (by decide), blAfter, dcAfter, getLsbD_dcSetDisplay,
      getLsbD_dcSetCursor, getLsbD_dcSetBlink]

/-! What reaches the board. -/

/-- A controller in step that is sent the display-control byte takes its three bits (30_encoding.md R114, R120). -/
theorem Lcd.takes_dispctl {p : Params} {l : Lcd} (hstd : p.stdCommands = true) (hbus : l.bus = .fourBit none)
    (hir : l.ir = none) (g : Screen) (dc : BitVec 3) :
    l.takes g false (cbDispctl p dc) = { l with dc := dc, draws := l.draws + 1 } := by
  obtain ⟨-, -, hbyte, -⟩ := std_bytes hstd
  obtain ⟨d, c, b, hdec, hbits⟩ := decode_dispctl dc
  rw [hbyte, Lcd.takes_command _ _ _ hdec _ hbus hir, ← hbits]
  rfl

/-- A controller of which no more than the display-control bits have changed. -/
theorem kept_of_lcd_eq {dc : BitVec 3} {n : Nat} (hbus : s.lcd.bus = .fourBit none) (hir : s.lcd.ir = none)
    (h : t.lcd = { s.lcd with dc := dc, draws := n }) :
    Synced t ∧ t.lcd.ptr = s.lcd.ptr ∧ SameMemory s t ∧ SameRegisters s t := by
  rw [Synced, SameMemory, SameRegisters, SameSettings, h]
  exact ⟨⟨hbus, hir⟩, rfl, ⟨fun _ => rfl, fun _ => rfl⟩, ⟨rfl, rfl, rfl, rfl⟩, rfl⟩

/-- Settles O44: the byte sent carries the whole of the new `S.dc`. -/
theorem displayControlReachesTheController : Obligations.DisplayControlReachesTheController := by
  unfold Obligations.DisplayControlReachesTheController
  intro s i rest d ⟨hf, hm, hstd, hbus, hir⟩ hs (hi : i ∈ dcOps)
  have hop := mem_toggleOps_of_dc hi
  obtain ⟨t, hexec, hsent, -, -⟩ :=
    exec_sends_byte (isReadyOp_of_toggle hop) hf hm (inRange_of_toggle hop) (actionsOf_dc_opStart hi) hs
  obtain ⟨-, -, hdc⟩ := exec_mirror hop hf hexec
  have hlcd := hsent.lcd.trans (Lcd.takes_dispctl hstd hbus hir _ _)
  obtain ⟨hsynced, hptr, hmem, hregs⟩ := kept_of_lcd_eq hbus hir hlcd
  exact ⟨t, hexec, hsynced, by rw [hlcd, hdc], hptr, hmem, hregs⟩

/-- The byte of a bare write has nibble, register-select and enable 0 (45_toggles.md R265). -/
theorem xbyte_bare (p : Params) (bl : Bool) : xbyte p bl 0 false false = if bl then p.blMask else 0 := by
  simp [xbyte, ctl]

/-- A write while enable is low latches nothing (41_framing.md R186). -/
theorem board_tWrite_of_quiet {p : Params} {out : Byte} (h : out &&& p.enMask = 0) (g : Screen) (v : Byte) (l : Lcd) :
    board p g [.tWrite v] (out, l) = (v, l) := by
  simp [board, boardStep, h]

/-- A backlight operation with all its list served ends with `OK`, and the board is what R265's list makes of it. -/
theorem exec_backlight_served {rest : List Answer} {d : Nat} (hi : i ∈ backlightOps) (hf : s.fsm = .ready)
    (hs : Serves (asksIn (backlightTrace s.params (blAfter i s) s.dc)) (waitsIn (backlightTrace s.params (blAfter i s) s.dc))
      s rest d) :
    ∃ t, exec i s = .next t ∧ t.params = s.params ∧
      (t.out, t.lcd) = board s.params s.screen (blApplyActions (opStart i s)) (s.out, s.lcd) := by
  have hop := mem_toggleOps_of_backlight hi
  rw [← okEvents_backlight hi, asksIn_okEvents, waitsIn_okEvents] at hs
  obtain ⟨t, hexec, hran⟩ := exec_served (isReadyOp_of_toggle hop) hf (inRange_of_toggle hop) hs
  exact ⟨_, hexec, hran.params, actionsOf_backlight hi _ ▸ hran.board⟩

/-- Settles O45: the list of R265 under each `BL_APPLY`. -/
theorem backlightReachesTheBoard : Obligations.BacklightReachesTheBoard := by
  unfold Obligations.BacklightReachesTheBoard
  intro s i b rest d ⟨hf, hm, hstd, hbus, hir⟩ hquiet hib hs
  obtain ⟨hi, rfl⟩ : i ∈ backlightOps ∧ b = blAfter i s := by
    simp only [List.mem_cons, List.not_mem_nil, or_false, Prod.mk.injEq] at hib
    obtain ⟨rfl, rfl⟩ | ⟨rfl, rfl⟩ | ⟨rfl, rfl⟩ := hib <;> exact ⟨by decide, rfl⟩
  obtain ⟨t, hexec, hparams, hboard⟩ := exec_backlight_served hi hf hs
  refine ⟨t, hexec, ?_⟩
  rw [hparams]
  cases happly : s.params.blApply with
  | resendDc =>
    have hlist : blApplyActions (opStart i s) = send s.params (blAfter i s) (cbDispctl s.params s.dc) false := by
      simp only [blApplyActions, opStart, happly, dcAfter_backlight hi]
    rw [hlist, board_send _ _ hm, Lcd.takes_dispctl hstd hbus hir] at hboard
    obtain ⟨hout, hlcd⟩ := Prod.mk.inj hboard
    obtain ⟨hsynced, hptr, hmem, hregs⟩ := kept_of_lcd_eq hbus hir hlcd
    obtain ⟨hen, -, hbl, -⟩ := xbyte_fields s.params hm (blAfter i s) false false (loNibble (cbDispctl s.params s.dc))
    rw [hout]
    exact ⟨hsynced, hptr, hmem, hregs, bne_eq_false_iff_eq.1 hen, fun _ => ⟨hbl, by rw [hlcd]⟩, nofun, nofun⟩
  | bareWrite =>
    have hlist : blApplyActions (opStart i s) = [.tWrite (xbyte s.params (blAfter i s) 0 false false)] := by
      simp only [blApplyActions, opStart, happly, xbyte_bare]
      rfl
    rw [hlist, board_tWrite_of_quiet hquiet] at hboard
    obtain ⟨hout, hlcd⟩ := Prod.mk.inj hboard
    obtain ⟨hsynced, hptr, hmem, hregs⟩ := kept_of_lcd_eq hbus hir hlcd
    obtain ⟨hen, -, hbl, -⟩ := xbyte_fields s.params hm (blAfter i s) false false 0
    rw [hout]
    exact ⟨hsynced, hptr, hmem, hregs, bne_eq_false_iff_eq.1 hen, nofun, fun _ => ⟨hbl, hlcd⟩, nofun⟩
  | none =>
    have hlist : blApplyActions (opStart i s) = [] := by simp only [blApplyActions, opStart, happly]
    rw [hlist, board_nil] at hboard
    obtain ⟨hout, hlcd⟩ := Prod.mk.inj hboard
    obtain ⟨hsynced, hptr, hmem, hregs⟩ := kept_of_lcd_eq hbus hir hlcd
    exact ⟨hsynced, hptr, hmem, hregs, hout ▸ hquiet, nofun, nofun, fun _ => ⟨hout, hlcd⟩⟩

end Sys2Proof.Machine
end

section
/-! PROOFS. Accepting a request word (60_exceptions.md R303): a legal word runs its instruction, a word that no row takes is answered
with code 4 (R304), and a lifecycle state that does not take the operation answers `NotReady` (R305). -/

namespace Sys2Proof.Machine

variable {s : State} {w : Word} {l : List Input}

/-- An idle block accepts the word at its port (60_exceptions.md R303, 10_state.md R45). -/
theorem step_of_offered (hwf : s.params.wf = true) (hir : s.lcd.ir = none) (hidle : s.busy = false)
    (hinbox : s.inbox = .request w :: l) : step s = accept w { s with inbox := l } := by
  simp only [step, hwf, hir, blockTurn, hidle, hinbox, Bool.false_eq_true, if_false, if_true]

theorem accept_legal {i : Instr} (s : State) (h : decodeRequest w = .ok i) :
    accept w s = exec i { s with req := w, busy := true } := by
  rw [accept, h]

/-- A word that no row takes does not decode (30_encoding.md R101, R107). -/
theorem not_decodes_of_no_row (h : ∀ r ∈ requestRows, r.takes w = false) (i : Instr) : decodeRequest w ≠ .ok i := by
  intro hdec
  obtain ⟨r, hr, htakes⟩ := row_of_decodeRequest hdec
  rw [h r hr] at htakes
  cases htakes

theorem exec_init_notReady {cols rows : Byte} {font : Nibble} {bl0 : Bool} (hu : s.fsm ≠ .uninitialized)
    (hc : s.fsm ≠ .closed) : exec (.init cols rows font bl0) s = .next (turnedAway .notReady s) :=
  if_neg (not_or.2 ⟨hu, hc⟩)

/-- Settles O7: the word is accepted, and it decodes. -/
theorem stepRunsRequest : Obligations.StepRunsRequest := by
  unfold Obligations.StepRunsRequest
  intro s w l i hwf hir hidle hinbox hdec
  rw [step_of_offered hwf hir hidle hinbox, accept_legal _ hdec]

/-- Settles O9: the word is accepted, and as no row takes it, it does not decode. -/
theorem illegalRequestHasNoEffect : Obligations.IllegalRequestHasNoEffect := by
  unfold Obligations.IllegalRequestHasNoEffect
  refine ⟨rfl, fun s w l hwf hir hidle hinbox hrows => ?_⟩
  rw [step_of_offered hwf hir hidle hinbox, accept_illegal _ (not_decodes_of_no_row hrows)]
  rfl

/-- Settles O20: INIT, CLOSE and the operations of `Ready`, by the state each asks for. -/
theorem notReadyTable : Obligations.NotReadyTable := by
  unfold Obligations.NotReadyTable
  intro s
  exact ⟨fun _ _ _ _ => exec_init_notReady, exec_close_notReady, fun _ => exec_notReady⟩

end Sys2Proof.Machine
end

section
/-! PROOFS. Hardware reset (70_reset_and_hazards.md R340, R341): the write already issued lands or not, and then the block takes
its reset values. -/

namespace Sys2Proof.Machine

variable {s : State} {i : Instr} {l : List Input} {v : Byte} {landed : Bool}

/-- A hardware reset at the head of the offers is what a step of the block does, idle or in flight. -/
theorem step_of_reset (hwf : s.params.wf = true) (hir : s.lcd.ir = none) (hin : s.inbox = .env (.reset landed) :: l) :
    step s = .next (hardReset landed { s with inbox := l }) := by
  have hblock : step s = blockTurn s := by simp only [step, hwf, hir, if_true]
  rw [hblock, blockTurn, hin]
  split <;> rfl

/-- What lands before the block resets is the write already issued, or nothing. -/
theorem hardReset_lands (h : pendingWrite s = some v) : hardReset true s = resetBlock (drive v s) := by
  simp only [hardReset, h]
  rfl

theorem hardReset_not_landed (s : State) : hardReset false s = resetBlock s := by
  unfold hardReset
  cases pendingWrite s <;> rfl

theorem hardReset_of_no_write (landed : Bool) (h : pendingWrite s = none) : hardReset landed s = resetBlock s := by
  simp only [hardReset, h]
  rfl

/-- A landing write touches the board only, so the block resets the same. -/
theorem hardReset_block (landed : Bool) (s : State) : ∃ out lcd,
    hardReset landed s = resetBlock { s with out := out, lcd := lcd } := by
  cases h : pendingWrite s with
  | none => exact ⟨s.out, s.lcd, hardReset_of_no_write landed h⟩
  | some v =>
    cases landed with
    | false => exact ⟨s.out, s.lcd, hardReset_not_landed s⟩
    | true =>
      rw [hardReset_lands h, drive]
      split
      · exact ⟨_, _, rfl⟩
      · exact ⟨v, s.lcd, rfl⟩

theorem sameBoard_hardReset_of_no_write (landed : Bool) (h : pendingWrite s = none) : SameBoard s (hardReset landed s) := by
  rw [hardReset_of_no_write landed h]
  exact ⟨rfl, rfl⟩

/-! The write already issued. -/

theorem pendingWrite_of_idle (h : s.busy = false) : pendingWrite s = none := by
  simp [pendingWrite, h]

theorem pendingWrite_of_closing (h : s.closing = true) : pendingWrite s = none := by
  simp [pendingWrite, h]

/-- In flight it is the write at `upc`, if the action there is one. -/
theorem pendingWrite_eq_some_iff (hb : s.busy = true) (hc : s.closing = false) (hw : decodeRequest s.req = .ok i) :
    pendingWrite s = some v ↔ (actionsOf i s)[s.upc]? = some (.tWrite v) := by
  simp only [pendingWrite, hb, hc, hw, Bool.not_false, Bool.and_self, if_true]
  cases (actionsOf i s)[s.upc]? with
  | none => simp
  | some a => cases a <;> simp

/-- From `s` to `t` the byte `v` has come to stand on the expander; the controller has latched if that took the enable line from
1 to 0 (20_memory.md R81). -/
def Lands (v : Byte) (s t : State) : Prop :=
  t.out = v ∧ t.lcd = if enableHigh s.params s.out && !enableHigh s.params v then
    s.lcd.latch (s.out &&& s.params.rsMask != 0) (hiNibble s.out) else s.lcd

theorem drive_lands (v : Byte) (s : State) : Lands v s (drive v s) := by
  refine ⟨drive_out v s, ?_⟩
  simp only [drive, enableHigh, bne, Bool.not_not]
  split <;> rfl

theorem hardReset_true_lands (h : pendingWrite s = some v) : Lands v s (hardReset true s) := by
  rw [hardReset_lands h]
  exact drive_lands v s

/-- Settles O13: the block's fields by `hardReset_block`, the board by whether a write is pending and lands. -/
theorem hardwareReset : Obligations.HardwareReset := by
  unfold Obligations.HardwareReset
  intro s landed l hwf hir hin
  have hstep := step_of_reset hwf hir hin
  have hfree : pendingWrite { s with inbox := l } = none → SameBoard s (hardReset landed { s with inbox := l }) :=
    sameBoard_hardReset_of_no_write landed
  have hpending : ∀ i v, s.busy = true → s.closing = false → decodeRequest s.req = .ok i →
      (pendingWrite { s with inbox := l } = some v ↔ (actionsOf i s)[s.upc]? = some (.tWrite v)) := fun i v hb hc hw => by
    rw [← actionsOf_congr i s { s with inbox := l } rfl rfl rfl rfl rfl]
    exact pendingWrite_eq_some_iff (s := { s with inbox := l }) hb hc hw
  have hlands : ∀ v, pendingWrite { s with inbox := l } = some v → landed = true →
      Lands v s (hardReset landed { s with inbox := l }) := by
    rintro v hv rfl
    exact hardReset_true_lands hv
  have hlost : landed = false → SameBoard s (hardReset landed { s with inbox := l }) := by
    rintro rfl
    rw [hardReset_not_landed]
    exact ⟨rfl, rfl⟩
  obtain ⟨out, lcd, hreset⟩ := hardReset_block landed { s with inbox := l }
  rw [hreset] at hstep hfree hlands hlost
  refine ⟨_, hstep, rfl, rfl, rfl, rfl, rfl, rfl, rfl, rfl, rfl, rfl, rfl, rfl, rfl, fun hb => hfree (pendingWrite_of_idle hb),
    fun hc => hfree (pendingWrite_of_closing hc), fun i hb hc hw => ⟨fun v hv => ⟨hlost, ?_⟩, fun hno => hfree ?_⟩⟩
  · exact hlands v ((hpending i v hb hc hw).2 hv)
  · exact Option.eq_none_iff_forall_ne_some.2 fun v hv => hno v ((hpending i v hb hc hw).1 hv)

end Sys2Proof.Machine
end

section
/-! PROOFS. INIT from any state of the controller (70_reset_and_hazards.md R343), and its waits (R361). Whatever interface the
controller has, three nibbles 0x3 leave it in 8-bit mode (`booted_takesNibble`), the nibble 0x2 then in 4-bit mode at a byte
boundary; from there on it takes the four commands of INIT in step. -/

namespace Sys2Proof.Machine

variable {s : State} {p : Params} {g : Screen} {l : Lcd}

/-! One nibble of a command, with the work it completes done. -/

/-- What a controller makes of one nibble sent with register-select 0 and then a wait (41_framing.md R182). -/
def Lcd.takesNibble (g : Screen) (n : Nibble) (l : Lcd) : Lcd := (l.latch false n).settle g

theorem Lcd.takesNibble_ir (g : Screen) (n : Nibble) (l : Lcd) : (l.takesNibble g n).ir = none := Lcd.settle_ir g _

/-- In 8-bit mode the nibble is a whole command, whatever the undriven lines read as (40_lifecycle_init.md R155). -/
theorem Lcd.takesNibble_eightBit (hir : l.ir = none) (hbus : l.bus = .eightBit) (n : Nibble) : ∃ m : Nibble,
    l.takesNibble g n = Lcd.byte g false (n ++ m) { l with draws := l.draws + 1 } := by
  refine ⟨Config.undrivenNibble l.draws, ?_⟩
  obtain ⟨bus, ir, two, font, dc, inc, shift, ptr, window, emptied, ddram, cgram, draws⟩ := l
  simp only at hir hbus
  subst hir hbus
  rfl

/-- At a byte boundary in 4-bit mode it is the high half of a byte (41_framing.md R186). -/
theorem Lcd.takesNibble_high (hir : l.ir = none) (hbus : l.bus = .fourBit none) (n : Nibble) :
    (l.takesNibble g n).bus = .fourBit (some (false, n)) := by
  simp [Lcd.takesNibble, Lcd.latch, Lcd.settle, hir, hbus]

/-- Half-way through a byte it completes the byte. -/
theorem Lcd.takesNibble_low {rs : Bool} {h : Nibble} (hir : l.ir = none) (hbus : l.bus = .fourBit (some (rs, h))) (n : Nibble) :
    l.takesNibble g n = Lcd.byte g (if rs == false then false else Config.lcdBit l.draws) (h ++ n)
      { l with bus := .fourBit none, draws := l.draws + 1 } := by
  obtain ⟨bus, ir, two, font, dc, inc, shift, ptr, window, emptied, ddram, cgram, draws⟩ := l
  simp only at hir hbus
  subst hir hbus
  rfl

/-- While the interface is unknown, nibbles 0x3 are counted (40_lifecycle_init.md R155). -/
theorem Lcd.takesNibble_unknown {k : Nat} (hir : l.ir = none) (hbus : l.bus = .unknown k) :
    (l.takesNibble g Config.nibBoot8).bus = if 2 ≤ k then .eightBit else .unknown (k + 1) := by
  simp [Lcd.takesNibble, Lcd.latch, Lcd.settle, Lcd.scramble, hir, hbus]

/-- A byte moves the interface only as a function-set does (30_encoding.md R120). -/
theorem Lcd.byte_bus (g : Screen) (rs : Bool) (b : Byte) (hbus : l.bus = .fourBit none) :
    (Lcd.byte g rs b l).bus = .fourBit none ∨ (Lcd.byte g rs b l).bus = .eightBit := by
  have hcommand : ∀ c, (l.command c).bus = .fourBit none ∨ (l.command c).bus = .eightBit := fun c => by
    cases c
    case lcdFunctionSet eightBit _ _ _ =>
      cases eightBit with
      | true => exact .inr rfl
      | false => exact .inl rfl
    all_goals exact .inl hbus
  cases rs with
  | true => exact .inl ((Lcd.data_frame g b l).1.trans hbus)
  | false =>
    simp only [Lcd.byte, Bool.false_eq_true, if_false]
    split
    · exact hcommand _
    · exact .inl hbus

/-- A byte with the high nibble of a boot nibble is a function-set to 8-bit mode. -/
theorem Lcd.byte_boot8_bus (g : Screen) (m : Nibble) (l : Lcd) :
    (Lcd.byte g false (Config.nibBoot8 ++ m) l).bus = .eightBit := by
  have hdec : ∀ m : Nibble, ∃ two font i, decodeCommand (Config.nibBoot8 ++ m) = .ok (.lcdFunctionSet true two font i) := by
    decide
  obtain ⟨two, font, i, hdec⟩ := hdec m
  rw [Lcd.byte_command g _ _ l hdec]
  rfl

/-- A byte with the high nibble 0x2 is a function-set to 4-bit mode, at a byte boundary (log 33). -/
theorem Lcd.byte_to4_bus (g : Screen) (m : Nibble) (l : Lcd) :
    (Lcd.byte g false (Config.nibTo4 ++ m) l).bus = .fourBit none := by
  have hdec : ∀ m : Nibble, ∃ two font i, decodeCommand (Config.nibTo4 ++ m) = .ok (.lcdFunctionSet false two font i) := by
    decide
  obtain ⟨two, font, i, hdec⟩ := hdec m
  rw [Lcd.byte_command g _ _ l hdec]
  rfl

/-! The recovery sequence (40_lifecycle_init.md R155). -/

/-- What the interface can be after `k` nibbles 0x3, up to three of them, from any state. -/
def Booted (k : Nat) : Bus → Prop
  | .eightBit => True
  | .unknown boots => k ≤ boots ∧ k ≤ 2
  | .fourBit none => k ≤ 1
  | .fourBit (some x) => k = 0 ∨ k ≤ 2 ∧ x = (false, Config.nibBoot8)

theorem booted_zero (b : Bus) : Booted 0 b := by
  rcases b with boots | _ | _ | x
  · exact ⟨Nat.zero_le _, Nat.zero_le _⟩
  · trivial
  · exact Nat.zero_le 1
  · exact .inl rfl

theorem Booted.eightBit {b : Bus} (h : Booted 3 b) : b = .eightBit := by
  rcases b with boots | _ | _ | x <;> simp [Booted] at h ⊢

/-- One more nibble 0x3. -/
theorem booted_takesNibble {k : Nat} (hk : k ≤ 2) (hir : l.ir = none) (h : Booted k l.bus) :
    Booted (k + 1) (l.takesNibble g Config.nibBoot8).bus := by
  rcases hbus : l.bus with boots | _ | _ | ⟨rs, high⟩ <;> rw [hbus] at h
  · rw [Lcd.takesNibble_unknown hir hbus]
    split
    · trivial
    · simp only [Booted] at h ⊢
      omega
  · obtain ⟨m, hbyte⟩ := Lcd.takesNibble_eightBit (g := g) hir hbus Config.nibBoot8
    rw [hbyte, Lcd.byte_boot8_bus]
    trivial
  · rw [Lcd.takesNibble_high hir hbus]
    exact .inr ⟨Nat.succ_le_succ h, rfl⟩
  · rw [Lcd.takesNibble_low hir hbus]
    obtain rfl | ⟨-, hx⟩ := h
    · obtain hb | hb := Lcd.byte_bus (l := { l with bus := .fourBit none, draws := l.draws + 1 }) g
        (if rs == false then false else Config.lcdBit l.draws) (high ++ Config.nibBoot8) rfl <;> rw [hb]
      · exact Nat.le_refl 1
      · trivial
    · cases hx
      have hboot := Lcd.byte_boot8_bus g Config.nibBoot8 { l with bus := .fourBit none, draws := l.draws + 1 }
      rw [if_pos (BEq.rfl (a := false)), hboot]
      trivial

/-- What a controller makes of the four nibbles that INIT begins with (40_lifecycle_init.md R153). -/
def Lcd.booted (g : Screen) (l : Lcd) : Lcd :=
  (((l.takesNibble g Config.nibBoot8).takesNibble g Config.nibBoot8).takesNibble g Config.nibBoot8).takesNibble g Config.nibTo4

theorem Lcd.booted_ir (g : Screen) (l : Lcd) : (l.booted g).ir = none := Lcd.takesNibble_ir g _ _

/-- From any state it is then in 4-bit mode at a byte boundary. -/
theorem Lcd.booted_bus (g : Screen) (hir : l.ir = none) : (l.booted g).bus = .fourBit none := by
  have h1 := booted_takesNibble (g := g) (k := 0) (by decide) hir (booted_zero _)
  have h2 := booted_takesNibble (g := g) (k := 1) (by decide) (Lcd.takesNibble_ir g _ _) h1
  have h3 := booted_takesNibble (g := g) (k := 2) (by decide) (Lcd.takesNibble_ir g _ _) h2
  obtain ⟨m, hbyte⟩ := Lcd.takesNibble_eightBit (g := g) (Lcd.takesNibble_ir g _ _) h3.eightBit Config.nibTo4
  rw [Lcd.booted, hbyte, Lcd.byte_to4_bus]

/-! INIT's list on the board. -/

/-- What a controller makes of the four commands of INIT. -/
def Lcd.configured (g : Screen) (p : Params) (rows : Byte) (font : Bool) (l : Lcd) : Lcd :=
  l.takesAll g [(false, cbFuncset p rows font), (false, cbDispctl p 0b100), (false, cbEntry p), (false, cbClear p)]

/-- INIT's list on the board, from any state of it; the waits around the nibbles find no work left. -/
theorem board_initActions (hm : s.params.masksWf = true) (g : Screen) (b : Byte × Lcd) :
    board s.params g (initActions s) b = (xbyte s.params s.bl (loNibble (cbClear s.params)) false false,
      (((b.2.settle g).booted g).configured g s.params s.rows s.font).settle g) := by
  simp only [initActions, board_append, board_tOpen, board_wait, board_setFsm, board_nil, board_writeNibble _ g hm,
    board_send _ g hm, Lcd.settle_idle g _ (Lcd.settle_ir g _)]
  rfl

/-- A controller in step executes commands sent one after the other, when none of them leaves 4-bit mode. -/
theorem Lcd.takesAll_commands (g : Screen) {cs : List (Byte × Instr)} (hdec : ∀ x ∈ cs, decodeCommand x.1 = .ok x.2)
    (hkeep : ∀ x ∈ cs, ∀ l : Lcd, l.bus = .fourBit none → (l.command x.2).bus = .fourBit none)
    (hbus : l.bus = .fourBit none) (hir : l.ir = none) : l.takesAll g (cs.map fun x => (false, x.1)) =
      cs.foldl (fun l x => Lcd.command x.2 { l with draws := l.draws + 1 }) l := by
  induction cs generalizing l with
  | nil => rfl
  | cons x cs ih =>
    have hstep := Lcd.takes_command g _ _ (hdec x List.mem_cons_self) l hbus hir
    have hbus' := hkeep x List.mem_cons_self { l with draws := l.draws + 1 } hbus
    have hir' := (Lcd.command_ir x.2 { l with draws := l.draws + 1 }).trans hir
    rw [← hstep] at hbus' hir'
    have hrest := ih (fun y hy => hdec y (List.mem_cons_of_mem _ hy)) (fun y hy => hkeep y (List.mem_cons_of_mem _ hy)) hbus' hir'
    rw [List.foldl_cons, ← hstep]
    exact hrest

/-- The function-set of INIT is one to 4-bit mode, with two lines for more than one row. -/
theorem decode_funcset {rows : Byte} (font : Bool) (hstd : p.stdCommands = true) (hrows : rows ≠ 0) :
    decodeCommand (cbFuncset p rows font) = .ok (.lcdFunctionSet false (rows != 1) font 0) := by
  obtain ⟨-, -, -, -, hbyte⟩ := std_bytes hstd
  have hmany : (rows != 1) = decide (1 < rows) := by
    rw [Bool.eq_iff_iff, bne_iff_ne, decide_eq_true_iff]
    bv_omega
  have hall : ∀ two font : Bool, decodeCommand (0x20 ||| (if two then 8 else 0) ||| (if font then 4 else 0)) =
      .ok (.lcdFunctionSet false two font 0) := by decide
  rw [hbyte, hmany, ← hall]
  simp only [decide_eq_true_eq]

/-- A controller in step takes the four commands of INIT as a function-set to 4-bit mode, the display on with the cursor off, the
increment mode, and a clear (30_encoding.md R120). -/
theorem Lcd.configured_synced {rows : Byte} (font : Bool) (hstd : p.stdCommands = true) (hrows : rows ≠ 0)
    (hbus : l.bus = .fourBit none) (hir : l.ir = none) : ∃ n, l.configured g p rows font =
      { l with bus := .fourBit none, twoLine := rows != 1, font5x10 := font, dc := 0b100, increment := true, shift := false,
               ptr := .ddram 0, emptied := true, ddram := [], draws := n } := by
  obtain ⟨hclear, -, hdispctl, hentry, -⟩ := std_bytes hstd
  have hcommands := Lcd.takesAll_commands (l := l) g (cs := [(cbFuncset p rows font, .lcdFunctionSet false (rows != 1) font 0),
    (cbDispctl p 0b100, .lcdDisplayControl true false false), (cbEntry p, .lcdEntryMode true false), (cbClear p, .lcdClear)])
    (by
      simp only [List.forall_mem_cons, List.not_mem_nil, false_imp_iff, implies_true, and_true]
      exact ⟨decode_funcset font hstd hrows, by rw [hdispctl]; rfl, by rw [hentry]; rfl, by rw [cbClear, hclear]; rfl⟩)
    (by
      simp only [List.forall_mem_cons, List.not_mem_nil, false_imp_iff, implies_true, and_true]
      exact ⟨fun _ _ => rfl, fun _ h => h, fun _ h => h, fun _ h => h⟩) hbus hir
  exact ⟨l.draws + 4, hcommands⟩

/-- INIT with all its list served ends with `OK`, having run the list. -/
theorem exec_init_served {cols rows : Byte} {font : Nibble} {bl0 : Bool} {rest : List Answer} {d : Nat}
    (hf : s.fsm = .uninitialized ∨ s.fsm = .closed) (hv : ValidSetup cols rows font) (hs : Serves 25 16 s rest d) :
    ∃ t, exec (.init cols rows font bl0) s = .next (respond .ok t) ∧
      Ran (initActions (initWrites cols rows font bl0 (start s))) (initWrites cols rows font bl0 (start s)) t := by
  obtain ⟨ha, hd⟩ := hs
  obtain ⟨hasks, hwaits, -, hsess⟩ := initActions_needs (initWrites cols rows font bl0 (start s))
  obtain ⟨t, hrun, -, -, h⟩ :=
    run_ok abortInit _ (initWrites cols rows font bl0 (start s)) rest d hsess (hasks ▸ ha) (hwaits ▸ hd)
  exact ⟨t, (exec_init_valid hf hv).trans (congrArg _ hrun), h⟩

/-- Settles O19: the boot nibbles bring any controller in step, and the four commands set all the rest. -/
theorem initFromAnyController : Obligations.InitFromAnyController := by
  unfold Obligations.InitFromAnyController
  intro s cols rows font bl0 rest d hf hv hm hstd hs
  obtain ⟨t, hexec, hran⟩ := exec_init_served (bl0 := bl0) hf hv hs
  obtain ⟨-, -, -, -, hdc, -⟩ := hran.mirror
  have hlist := board_initActions (s := initWrites cols rows font bl0 (start s)) hm (cols, rows) (s.out, s.lcd)
  obtain ⟨hout, hlcd⟩ := Prod.mk.inj (hran.board.trans hlist)
  obtain ⟨hen, -, hbl, -⟩ := xbyte_fields s.params hm bl0 false false (loNibble (cbClear s.params))
  have hir : ((s.lcd.settle (cols, rows)).booted (cols, rows)).ir = none := Lcd.booted_ir _ _
  obtain ⟨n, hset⟩ := Lcd.configured_synced (g := (cols, rows)) (font.getLsbD 0) hstd hv.rows_ne_zero
    (Lcd.booted_bus (cols, rows) (Lcd.settle_ir (cols, rows) s.lcd)) hir
  have hend := hlcd.trans ((congrArg (Lcd.settle (cols, rows)) hset).trans (Lcd.settle_idle _ _ hir))
  refine ⟨_, hexec, ?_⟩
  simp only [Synced, respond_lcd, respond_out, respond_params, respond_dc, hdc, hout, hran.params]
  rw [hend]
  exact ⟨⟨rfl, hir⟩, rfl, hv.font_bit, rfl, rfl, rfl, rfl, rfl, fun _ => rfl, bne_eq_false_iff_eq.1 hen, hbl⟩

/-- Settles O60: 24 bytes and 16 waits whatever the bytes are, and each wait at its lower bound or default. -/
theorem initWaits : Obligations.InitWaits := by
  unfold Obligations.InitWaits
  intro p rows font bl0
  have hwaits : ∀ q : Params, waitsOf (initTrace q rows font bl0) =
      [.powerOn, .settle, .boot1, .settle, .boot2] ++ List.replicate 10 .settle ++ [.clear] := fun _ => rfl
  have hmicros : ∀ q : Params, waitMicros q (initTrace q rows font bl0) =
      q.tPowerOn + q.tBoot1 + q.tBoot2 + q.tClear + 12 * q.tSettle := fun q => by
    simp only [waitMicros, hwaits, List.replicate, List.cons_append, List.nil_append, List.map_cons, List.map_nil,
      Delay.micros, List.sum_cons, List.sum_nil]
    omega
  refine ⟨hwaits p, rfl, fun hwf => ?_, hmicros Params.default⟩
  simp only [Params.wf, Bool.and_eq_true, Params.delaysWf_iff] at hwf
  obtain ⟨⟨-, hon, hboot1, hboot2, hsettle, hclear⟩, -⟩ := hwf
  rw [hmicros]
  omega

end Sys2Proof.Machine
end

section
/-! PROOFS. Sequences of operations and the double close (70_reset_and_hazards.md R358, 40_lifecycle_init.md R162). A host that
goes on after every answer brings the block to Closed only by a CLOSE that answers `OK`, and out of it only by an INIT that does
(`accept_closedAfter`), so a fault means that the host has issued such a CLOSE before. -/

namespace Sys2Proof.Machine

variable {s t : State} {i : Instr} {r : Response} {f : Fault} {c : Bool}

/-! Requests that the host encodes. -/

theorem encodeRequest_of_command (h : i.isRequest = false) : encodeRequest i = 0 := by
  unfold encodeRequest
  cases i
  case lcdClear | lcdHome | lcdEntryMode | lcdDisplayControl | lcdShift | lcdFunctionSet | lcdSetCgramAddr |
      lcdSetDdramAddr => rfl
  all_goals cases h

/-- The block executes the request that the host encodes, or turns away the word that stands for none (30_encoding.md R107). -/
theorem accept_encodeRequest_cases (hwf : i.wf = true) (s : State) :
    (i.isRequest = true ∧ accept (encodeRequest i) s = exec i { s with req := encodeRequest i, busy := true }) ∨
    (i.isRequest = false ∧ accept (encodeRequest i) s = .next (turnedAway .illegalRequest s)) := by
  cases hi : i.isRequest with
  | true => exact .inl ⟨rfl, accept_encodeRequest hi hwf s⟩
  | false =>
    have hzero : ∀ j, decodeRequest 0 ≠ .ok j := nofun
    rw [encodeRequest_of_command hi]
    exact .inr ⟨rfl, accept_illegal s hzero⟩

/-- The one request that faults is a CLOSE of a closed block (40_lifecycle_init.md R162). -/
theorem accept_fault (hwf : i.wf = true) (h : accept (encodeRequest i) s = .fault f) :
    f = .doubleClose ∧ i = .close ∧ s.fsm = .closed := by
  obtain ⟨-, hexec⟩ | ⟨-, hillegal⟩ := accept_encodeRequest_cases hwf s
  · rw [hexec] at h
    by_cases hd : i = .close → s.fsm ≠ .closed
    · obtain ⟨t, hsafe⟩ := exec_safe (s := { s with req := encodeRequest i, busy := true }) hd
      exact nomatch hsafe.symm.trans h
    · rw [Classical.not_imp, not_not] at hd
      obtain ⟨rfl, hf⟩ := hd
      cases (exec_close_closed (s := { s with req := encodeRequest .close, busy := true }) hf).symm.trans h
      exact ⟨rfl, rfl, hf⟩
  · exact nomatch hillegal.symm.trans h

/-! How the lifecycle stands after an operation that has ended. -/

/-- An abort of INIT that has ended leaves the block Uninitialized (40_lifecycle_init.md R156). -/
theorem abortInit_ended (hb : s.busy = true) (h : (abortInit s).busy = false) :
    (abortInit s).fsm = .uninitialized ∧ (abortInit s).responses.getLast? = some .ioError := by
  have hlast : ∀ u, (failInit u).responses.getLast? = some .ioError := fun u => List.getLast?_concat
  unfold abortInit closeInit at h ⊢
  split
  · exact ⟨rfl, hlast _⟩
  · next hk =>
    rw [if_neg hk] at h
    split at h
    · exact nomatch hb.symm.trans h
    · exact ⟨rfl, hlast _⟩

/-- An INIT that has run and ended has left the block `Ready` or Uninitialized (40_lifecycle_init.md R154, R156). -/
theorem run_init_ended (hb : s.busy = true) (hf : s.fsm = .uninitialized)
    (h : (run abortInit (initActions s) s).busy = false) : (run abortInit (initActions s) s).fsm ≠ .closed := by
  obtain ⟨-, -, -, hsess⟩ := initActions_needs s
  obtain ⟨t, hrun, hran⟩ | ⟨pre, a, post, -, hran, -⟩ | ⟨pre, v, post, t, reached, rest, -, hran, hrun⟩ |
      ⟨pre, post, t, rest, -, hran, hrun⟩ := run_cases abortInit (initActions s) s hsess
  · have hready : t.fsm = .ready := hran.fsm.trans (hf ▸ fsmAfter_initActions s)
    simp [hrun, hready]
  · exact nomatch (hran.busy.trans hb).symm.trans h
  · rw [hrun] at h ⊢
    rw [(abortInit_ended (by simpa using hran.busy.trans hb) h).1]
    decide
  · rw [hrun] at h ⊢
    rw [(abortInit_ended (by exact hran.busy.trans hb) h).1]
    decide

/-! Who has closed the block (70_reset_and_hazards.md R358). -/

theorem closedAfter_cons (c : Bool) (x : Instr × Response) (l : List (Instr × Response)) :
    closedAfter c (x :: l) = closedAfter (closedAfter c [x]) l := by
  obtain ⟨i, r⟩ := x
  simp only [closedAfter]
  split <;> rfl

/-- Only an `OK` moves it. -/
theorem closedAfter_of_not_ok (c : Bool) (i : Instr) (h : r ≠ .ok) : closedAfter c [(i, r)] = c := by
  unfold closedAfter
  split
  · exact absurd rfl h
  · exact absurd rfl h
  · rfl

/-- Only INIT and CLOSE move it. -/
theorem closedAfter_of_isReadyOp (c : Bool) (hi : isReadyOp i = true) (r : Response) : closedAfter c [(i, r)] = c := by
  unfold closedAfter
  split
  · cases hi
  · cases hi
  · rfl

theorem response_of_turnedAway {q : Response} (h : (turnedAway q s).responses.getLast? = some r) : q = r := by
  simpa [turnedAway] using h

/-- A request turned away leaves the lifecycle and what the host knows of it. -/
theorem closedAfter_of_turnedAway {q : Response} (hq : q ≠ .ok) (hlast : (turnedAway q s).responses.getLast? = some r)
    (hc : s.fsm = .closed → c = true) (hf : (turnedAway q s).fsm = .closed) : closedAfter c [(i, r)] = true := by
  obtain rfl := response_of_turnedAway hlast
  rw [closedAfter_of_not_ok c i hq]
  exact hc hf

theorem exec_init_closedAfter {cols rows : Byte} {font : Nibble} {bl0 : Bool}
    (h : exec (.init cols rows font bl0) s = .next t) (hidle : t.busy = false) (hlast : t.responses.getLast? = some r)
    (hc : s.fsm = .closed → c = true) (hf : t.fsm = .closed) : closedAfter c [(.init cols rows font bl0, r)] = true := by
  by_cases hs : s.fsm = .uninitialized ∨ s.fsm = .closed
  · by_cases hv : ValidSetup cols rows font
    · cases (exec_init_valid hs hv).symm.trans h
      exact absurd hf (run_init_ended rfl rfl hidle)
    · cases (exec_init_invalid hs hv).symm.trans h
      exact closedAfter_of_turnedAway (by decide) hlast hc hf
  · obtain ⟨hu, hcl⟩ := not_or.1 hs
    cases (exec_init_notReady hu hcl).symm.trans h
    exact absurd hf hcl

theorem exec_close_closedAfter (h : exec .close s = .next t) (hidle : t.busy = false)
    (hlast : t.responses.getLast? = some r) (hf : t.fsm = .closed) : closedAfter c [(.close, r)] = true := by
  by_cases hcl : s.fsm = .closed
  · exact nomatch (exec_close_closed hcl).symm.trans h
  · by_cases hr : s.fsm = .ready
    · cases (exec_close_ready hr).symm.trans h
      cases hn : s.closes with
      | zero =>
        rw [goOn_close_held (s := start s) rfl hn] at hidle
        cases hidle
      | succ n =>
        rw [goOn_close_done (s := start s) rfl hn, respond_responses, List.getLast?_concat] at hlast
        cases hlast
        rfl
    · cases (exec_close_notReady hr hcl).symm.trans h
      exact absurd hf hcl

theorem exec_readyOp_closedAfter (hi : isReadyOp i = true) (h : exec i s = .next t) (hc : s.fsm = .closed → c = true)
    (hf : t.fsm = .closed) : closedAfter c [(i, r)] = true := by
  obtain ⟨⟨hsame, -⟩, -⟩ := lifecycleFrame s t i hi h
  rw [closedAfter_of_isReadyOp c hi r]
  exact hc (hsame.symm.trans hf)

/-- After an operation that has ended, a closed block has been closed by a CLOSE that answered `OK`, with no INIT since. -/
theorem accept_closedAfter (hwf : i.wf = true) (h : accept (encodeRequest i) s = .next t) (hidle : t.busy = false)
    (hlast : t.responses.getLast? = some r) (hc : s.fsm = .closed → c = true) (hf : t.fsm = .closed) :
    closedAfter c [(i, r)] = true := by
  obtain ⟨hreq, hexec⟩ | ⟨-, hillegal⟩ := accept_encodeRequest_cases hwf s
  · rw [hexec] at h
    obtain hinit | rfl | hop := request_cases hreq
    · cases i
      case init cols rows font bl0 => exact exec_init_closedAfter h hidle hlast hc hf
      all_goals cases hinit
    · exact exec_close_closedAfter h hidle hlast hf
    · exact exec_readyOp_closedAfter hop h hc hf
  · cases hillegal.symm.trans h
    exact closedAfter_of_turnedAway (by decide) hlast hc hf

/-! Operations issued one after the other. -/

/-- A sequence that faults does so at its first operation, or after an answer to it. -/
theorem issueEach_cons_faulted {is : List Instr} {h : List (Instr × Response)}
    (hissue : issueEach (i :: is) s = (h, .faulted f)) :
    h = [] ∧ accept (encodeRequest i) s = .fault f ∨
    ∃ t r h', accept (encodeRequest i) s = .next t ∧ t.busy = false ∧ t.responses.getLast? = some r ∧
      issueEach is t = (h', .faulted f) ∧ h = (i, r) :: h' := by
  unfold issueEach at hissue
  cases haccept : accept (encodeRequest i) s with
  | next t =>
    simp only [haccept] at hissue
    split at hissue
    · cases hissue
    · next hb =>
      split at hissue
      · next r hr =>
        obtain ⟨rfl, hrest⟩ := Prod.mk.inj hissue
        exact .inr ⟨t, r, _, rfl, Bool.eq_false_iff.2 hb, hr, Prod.ext rfl hrest, rfl⟩
      · cases hissue
  | fault g =>
    simp only [haccept] at hissue
    cases hissue
    exact .inl ⟨rfl, rfl⟩
  | refused q =>
    simp only [haccept] at hissue
    cases hissue

theorem issueEach_faulted (is : List Instr) {h : List (Instr × Response)} (hwf : ∀ i ∈ is, i.wf = true)
    (hc : s.fsm = .closed → c = true) (hissue : issueEach is s = (h, .faulted f)) :
    f = .doubleClose ∧ h.map Prod.fst = is.take h.length ∧ is[h.length]? = some .close ∧ closedAfter c h = true := by
  induction is generalizing s h c with
  | nil => cases hissue
  | cons i is ih =>
    have hi := hwf i List.mem_cons_self
    obtain ⟨rfl, hfault⟩ | ⟨t, r, h', haccept, hidle, hlast, hrest, rfl⟩ := issueEach_cons_faulted hissue
    · obtain ⟨rfl, rfl, hf⟩ := accept_fault hi hfault
      exact ⟨rfl, rfl, rfl, hc hf⟩
    · obtain ⟨hkind, hanswered, hclose, hclosed⟩ := ih (c := closedAfter c [(i, r)])
        (fun j hj => hwf j (List.mem_cons_of_mem _ hj)) (accept_closedAfter hi haccept hidle hlast hc) hrest
      refine ⟨hkind, ?_, hclose, (closedAfter_cons c (i, r) h').trans hclosed⟩
      rw [List.map_cons, hanswered, List.length_cons, List.take_succ_cons]

/-- Settles O57: by induction on the operations, with who has closed the block carried along. -/
theorem noDoubleCloseNoFault : Obligations.NoDoubleCloseNoFault := by
  unfold Obligations.NoDoubleCloseNoFault
  exact fun s is h f hwf hissue => issueEach_faulted is hwf decide_eq_true hissue

end Sys2Proof.Machine
end

section
/-! PROOFS. A host that keeps R350 writes text to the screen (70_reset_and_hazards.md R350). An operation that has answered `OK`
has had all its list served (`serves_of_ok`), so what each operation is known to do to a controller in step applies: the controller
stays in step, no operation but an upload takes the pointer out of DDRAM, and a SET_CURSOR puts it back there
(`Attended.step`). -/

namespace Sys2Proof.Machine

variable {s t : State} {i : Instr}

/-! What an `OK` says of the environment. -/

/-- The block is idle, and its last response is `OK`. -/
def EndedOk (t : State) : Prop := t.busy = false ∧ t.responses.getLast? = some .ok

theorem not_endedOk_of_busy (h : t.busy = true) : ¬ EndedOk t := fun ⟨hidle, _⟩ => nomatch h.symm.trans hidle

theorem not_endedOk_turnedAway {r : Response} (hr : r ≠ .ok) (s : State) : ¬ EndedOk (turnedAway r s) :=
  fun ⟨_, hlast⟩ => hr (response_of_turnedAway hlast)

theorem not_endedOk_abortReady (s : State) : ¬ EndedOk (abortReady s) := fun ⟨_, hlast⟩ => by
  simp at hlast

theorem not_endedOk_abortInit (hb : s.busy = true) : ¬ EndedOk (abortInit s) := fun ⟨hidle, hlast⟩ => by
  rw [(abortInit_ended hb hidle).2] at hlast
  cases hlast

/-- A list that has ended with `OK` has had every action served (41_framing.md R193). -/
theorem serves_of_ok {ab : State → State} (hab : ∀ u, u.busy = true → ¬ EndedOk (ab u)) {l : List Action}
    (hs : l.all Action.inSession = true) (hb : s.busy = true) (hok : EndedOk (run ab l s)) :
    ∃ rest d, Serves (asksOf l) (waitsNeeded l) s rest d := by
  obtain ⟨rest, d, ha, hd⟩ | ⟨pre, a, post, rest, d, rfl, ha, hd, hmiss⟩ |
      ⟨pre, a, post, r, rest, d, rfl, hq, ha, hd⟩ := served_cases l s.answers s.delays
  · exact ⟨rest, d, ha, hd⟩
  all_goals rw [List.all_append, Bool.and_eq_true] at hs
  · obtain ⟨t, hrun, -, -, hran⟩ := run_stop ab pre post a s rest d hs.1 ha hd hmiss
    exact absurd hok (hrun ▸ not_endedOk_of_busy (hran.busy.trans hb))
  · cases a with
    | tWrite v =>
      obtain ⟨t, hrun, -, hran⟩ := run_cut ab pre post v s rest d r hs.1 ha hd
      exact absurd hok (hrun ▸ hab _ (by simpa using hran.busy.trans hb))
    | tOpen =>
      obtain ⟨t, hrun, -, hran⟩ := run_cut_open ab pre post s rest d r hs.1 ha hd
      exact absurd hok (hrun ▸ hab _ (hran.busy.trans hb))
    | tClose | wait _ | setFsm _ => cases hq

/-- An operation of `Ready` that answers `OK` has met `Ready`, in range, and has had its list served. -/
theorem exec_readyOp_ok (hi : isReadyOp i = true) (h : exec i s = .next t) (hok : EndedOk t) :
    s.fsm = .ready ∧ InRange i s ∧
      ∃ rest d, Serves (asksOf (actionsOf i (opStart i s))) (waitsNeeded (actionsOf i (opStart i s))) s rest d := by
  have hf : s.fsm = .ready := by
    by_contra hf
    cases (exec_notReady hi hf).symm.trans h
    exact not_endedOk_turnedAway (by decide) s hok
  have hv : InRange i s := by
    rintro row col rfl
    by_contra hv
    simp only [cursorValid, Bool.and_eq_true, decide_eq_true_eq, not_and_or, BitVec.not_lt] at hv
    cases (exec_setCursor_invalid hf hv).symm.trans h
    exact not_endedOk_turnedAway (by decide) s hok
  cases (exec_ready i s hi hf hv).symm.trans h
  exact ⟨hf, hv, serves_of_ok (s := opStart i s) (fun u _ => not_endedOk_abortReady u)
    (plain_lifecycle _ (actionsOf_plain i _ hi)).2.2 rfl hok⟩

/-- An INIT that answers `OK` has been taken with a valid setup, and has had its list served. -/
theorem exec_init_ok {cols rows : Byte} {font : Nibble} {bl0 : Bool} (h : exec (.init cols rows font bl0) s = .next t)
    (hok : EndedOk t) : (s.fsm = .uninitialized ∨ s.fsm = .closed) ∧ ValidSetup cols rows font ∧
      ∃ rest d, Serves 25 16 s rest d := by
  have hf : s.fsm = .uninitialized ∨ s.fsm = .closed := by
    by_contra hf
    obtain ⟨hu, hc⟩ := not_or.1 hf
    cases (exec_init_notReady hu hc).symm.trans h
    exact not_endedOk_turnedAway (by decide) s hok
  have hv : ValidSetup cols rows font := by
    by_contra hv
    cases (exec_init_invalid hf hv).symm.trans h
    exact not_endedOk_turnedAway (by decide) s hok
  cases (exec_init_valid hf hv).symm.trans h
  obtain ⟨hasks, hwaits, -, hsess⟩ := initActions_needs (initWrites cols rows font bl0 (start s))
  have hserves := serves_of_ok (s := initWrites cols rows font bl0 (start s)) (fun u hu => not_endedOk_abortInit hu) hsess rfl hok
  rw [hasks, hwaits] at hserves
  exact ⟨hf, hv, hserves⟩

/-- A CLOSE that answers `OK` has left the board alone. -/
theorem exec_close_ok (h : exec .close s = .next t) (hok : EndedOk t) : SameBoard s t := by
  have hc : s.fsm ≠ .closed := fun hc => nomatch (exec_close_closed hc).symm.trans h
  have hf : s.fsm = .ready := by
    by_contra hf
    cases (exec_close_notReady hf hc).symm.trans h
    exact not_endedOk_turnedAway (by decide) s hok
  obtain ⟨-, hdone, hheld⟩ := closeCompletes
  cases hn : s.closes with
  | zero =>
    cases (hheld s hf hn).symm.trans h
    exact absurd hok (not_endedOk_of_busy rfl)
  | succ n =>
    obtain ⟨u, hexec, -, -, -, -, -, hboard, -⟩ := hdone s n hf hn
    cases hexec.symm.trans h
    exact hboard

/-! What an operation of `Ready` leaves of the board. -/

/-- The enable line is low after it (41_framing.md R183). -/
theorem exec_readyOp_quiet (hi : isReadyOp i = true) (hm : s.params.masksWf = true) (h : exec i s = .next t) (hok : EndedOk t)
    (hquiet : s.out &&& s.params.enMask = 0) : t.out &&& s.params.enMask = 0 := by
  obtain ⟨hf, hv, rest, d, hs⟩ := exec_readyOp_ok hi h hok
  obtain ⟨u, hexec, hran⟩ := exec_served hi hf hv hs
  cases hexec.symm.trans h
  have hpaired := paired_actionsOf i (s := opStart i s) hm
  have hlow : enableHigh s.params s.out = false := by simp [enableHigh, hquiet]
  rw [← List.append_nil (actionsOf i (opStart i s))] at hpaired
  have hcalm := calm_after hpaired (b := s.out) (.inl hlow)
  obtain hend | ⟨v, hv, -⟩ := hcalm
  · rw [respond_out, hran.out]
    exact bne_eq_false_iff_eq.1 hend
  · cases hv

/-- Settles O40: the byte sent is 0x02 at the default literals, which is LCD_HOME. -/
theorem homeKeepsTheScreen : Obligations.HomeKeepsTheScreen := by
  unfold Obligations.HomeKeepsTheScreen
  intro s rest d h hs
  have ⟨_, _, hstd, hbus, hir⟩ := h
  obtain ⟨-, hbyte, -⟩ := std_bytes hstd
  have hdec : decodeCommand s.params.cmdHome = .ok (.lcdHome 0) := by rw [hbyte]; rfl
  obtain ⟨t, hexec, -, hlcd⟩ := exec_sends_command (i := .home) (ds := [.home]) h rfl
    (inRange_of_ne_setCursor fun _ _ => nofun) rfl hdec hs
  refine ⟨_, hexec, ?_⟩
  simp only [Synced, SameMemory, SameRegisters, SameSettings, respond_lcd, hlcd]
  exact ⟨⟨hbus, hir⟩, ⟨_, rfl⟩, ⟨fun _ => rfl, fun _ => rfl⟩, ⟨⟨rfl, rfl, rfl, rfl⟩, rfl⟩, rfl⟩

/-- The pointer is in DDRAM. -/
def InDdram (s : State) : Prop := ∃ a, s.lcd.ptr = .ddram a

/-- No operation but an upload takes the pointer out of DDRAM, and a SET_CURSOR puts it there. -/
def PointerKept (i : Instr) (s t : State) : Prop :=
  (∀ row col, i = .setCursor row col → InDdram t) ∧
  ((∀ loc pattern, i ≠ .uploadCustomChar loc pattern) → InDdram s → InDdram t)

theorem pointerKept_of_inDdram (h : InDdram t) : PointerKept i s t := ⟨fun _ _ _ => h, fun _ _ => h⟩

theorem pointerKept_of_not_setCursor (hi : ∀ row col, i ≠ .setCursor row col) (h : InDdram s → InDdram t) :
    PointerKept i s t := ⟨fun row col h' => absurd h' (hi row col), fun _ => h⟩

theorem inDdram_of_ptr_eq (h : t.lcd.ptr = s.lcd.ptr) (hs : InDdram s) : InDdram t := by
  rwa [InDdram, h]

theorem readyOp_cases (hi : isReadyOp i = true) :
    i = .clear ∨ i = .home ∨ (∃ row col, i = .setCursor row col) ∨
    (∃ code, i = .writeRaw code) ∨ (∃ loc pattern, i = .uploadCustomChar loc pattern) ∨ i ∈ backlightOps ∨ i ∈ dcOps := by
  cases i
  case init | close | lcdClear | lcdHome | lcdEntryMode | lcdDisplayControl | lcdShift | lcdFunctionSet | lcdSetCgramAddr |
      lcdSetDdramAddr => cases hi
  all_goals simp [backlightOps, dcOps]

/-- A backlight operation that answers `OK` leaves a controller in step, and its pointer. -/
theorem exec_backlight_kept (hi : i ∈ backlightOps) (hstep : InStep s) (hquiet : s.out &&& s.params.enMask = 0)
    {rest : List Answer} {d : Nat}
    (hs : Serves (asksOf (actionsOf i (opStart i s))) (waitsNeeded (actionsOf i (opStart i s))) s rest d) :
    ∃ t, exec i s = .next t ∧ Synced t ∧ t.lcd.ptr = s.lcd.ptr := by
  have hmem : (i, blAfter i s) ∈ [(.backlightOn, true), (.backlightOff, false), (.backlightToggle, !s.bl)] := by
    fin_cases hi <;> simp [blAfter]
  rw [← asksIn_okEvents, ← waitsIn_okEvents, okEvents_backlight hi] at hs
  obtain ⟨t, hexec, hsynced, hptr, -⟩ := backlightReachesTheBoard s i (blAfter i s) rest d hstep hquiet hmem hs
  exact ⟨t, hexec, hsynced, hptr⟩

/-- An operation of `Ready` that answers `OK` leaves a controller in step, and its pointer as `PointerKept` says. -/
theorem exec_readyOp_pointer (hi : isReadyOp i = true) (hwf : i.wf = true) (hstep : InStep s) (hg : legalGeometry s)
    (hquiet : s.out &&& s.params.enMask = 0) (h : exec i s = .next t) (hok : EndedOk t) : Synced t ∧ PointerKept i s t := by
  obtain ⟨-, hv, rest, d, hs⟩ := exec_readyOp_ok hi h hok
  obtain rfl | rfl | ⟨row, col, rfl⟩ | ⟨code, rfl⟩ | ⟨loc, pattern, rfl⟩ | hi | hi := readyOp_cases hi
  · obtain ⟨u, hexec, hsynced, -, hptr, -⟩ := clearEmptiesTheScreen s rest d hstep hs
    cases hexec.symm.trans h
    exact ⟨hsynced, pointerKept_of_inDdram ⟨_, hptr⟩⟩
  · obtain ⟨u, hexec, hsynced, hptr, -⟩ := homeKeepsTheScreen s rest d hstep hs
    cases hexec.symm.trans h
    exact ⟨hsynced, pointerKept_of_inDdram hptr⟩
  · have hin := hv row col rfl
    simp only [cursorValid, Bool.and_eq_true, decide_eq_true_eq] at hin
    obtain ⟨u, hexec, hsynced, hptr, -⟩ := setCursorPoints s row col rest d hstep hg hin.2 hin.1 hs
    cases hexec.symm.trans h
    exact ⟨hsynced, pointerKept_of_inDdram ⟨_, hptr⟩⟩
  · obtain ⟨u, hexec, hsynced, -, -, -, hstored, -⟩ := writeRawStores s code rest d hstep hs
    cases hexec.symm.trans h
    refine ⟨hsynced, pointerKept_of_not_setCursor (fun _ _ => nofun) fun ⟨a, ha⟩ => ?_⟩
    obtain ⟨-, -, -, hptr, -⟩ := hstored a ha
    exact hptr
  · have hlen : pattern.length = 8 := beq_iff_eq.1 hwf
    rw [actionsOf_upload, asksOf_sends, waitsNeeded_sends, length_uploadBytes loc hlen] at hs
    obtain ⟨u, hexec, hsynced, -⟩ := uploadStoresTheGlyph s loc pattern rest d hstep hlen hs
    cases hexec.symm.trans h
    exact ⟨hsynced, fun _ _ => nofun, fun hno => absurd rfl (hno loc pattern)⟩
  · obtain ⟨u, hexec, hsynced, hptr⟩ := exec_backlight_kept hi hstep hquiet hs
    cases hexec.symm.trans h
    exact ⟨hsynced, fun row col h' => by subst h'; simp [backlightOps] at hi, fun _ => inDdram_of_ptr_eq hptr⟩
  · rw [actionsOf_dc_opStart hi, asksOf_send, waitsNeeded_send] at hs
    obtain ⟨u, hexec, hsynced, -, hptr, -⟩ := displayControlReachesTheController s i rest d hstep hs hi
    cases hexec.symm.trans h
    exact ⟨hsynced, fun row col h' => by subst h'; simp [dcOps] at hi, fun _ => inDdram_of_ptr_eq hptr⟩

/-! Operations issued one after the other. -/

/-- Between two operations: the block idle in a state that meets the invariant, under the parameters that claims about the display
ask for, the controller in step and the enable line low. -/
structure Attended (s : State) : Prop where
  inv : Inv s
  idle : s.busy = false
  masks : s.params.masksWf = true
  commands : s.params.stdCommands = true
  synced : Synced s
  quiet : s.out &&& s.params.enMask = 0

/-- What a request executed from such a state leaves of the board, when it answers `OK`. -/
theorem Attended.exec_board (h : Attended s) (hreq : i.isRequest = true) (hwf : i.wf = true) (w : Word)
    (hexec : exec i { s with req := w, busy := true } = .next t) (hparams : t.params = s.params) (hok : EndedOk t) :
    Synced t ∧ t.out &&& s.params.enMask = 0 ∧ PointerKept i s t := by
  obtain ⟨hbus, hir⟩ := h.synced
  obtain hinit | rfl | hop := request_cases hreq
  · cases i
    case init cols rows font bl0 =>
      obtain ⟨hf, hv, rest, d, hs⟩ := exec_init_ok hexec hok
      obtain ⟨u, hexec', hsynced, -, -, -, -, -, -, hptr, -, hen, -⟩ :=
        initFromAnyController { s with req := w, busy := true } cols rows font bl0 rest d hf hv h.masks h.commands hs
      cases hexec'.symm.trans hexec
      exact ⟨hsynced, hparams ▸ hen, pointerKept_of_inDdram ⟨_, hptr⟩⟩
    all_goals cases hinit
  · obtain ⟨hout, hlcd⟩ := exec_close_ok hexec hok
    refine ⟨?_, hout ▸ h.quiet, pointerKept_of_not_setCursor (fun _ _ => nofun) (inDdram_of_ptr_eq (congrArg Lcd.ptr hlcd))⟩
    rw [Synced, hlcd]
    exact h.synced
  · obtain ⟨hf, -, -⟩ := exec_readyOp_ok hop hexec hok
    have hhandle : s.fsm.hasHandle = true := by rw [show s.fsm = .ready from hf]; rfl
    obtain ⟨hsynced, hptr⟩ := exec_readyOp_pointer (s := { s with req := w, busy := true }) hop hwf
      ⟨hf, h.masks, h.commands, hbus, hir⟩ (h.inv.geometry hhandle) h.quiet hexec hok
    have hquiet := exec_readyOp_quiet (s := { s with req := w, busy := true }) hop h.masks hexec hok h.quiet
    exact ⟨hsynced, hquiet, hptr⟩

/-- An operation that answers `OK` leads from such a state to one. -/
theorem Attended.step (h : Attended s) (hwf : i.wf = true) (haccept : accept (encodeRequest i) s = .next t) (hok : EndedOk t) :
    Attended t ∧ PointerKept i s t := by
  obtain ⟨hreq, hexec⟩ | ⟨-, hillegal⟩ := accept_encodeRequest_cases hwf s
  · have hturn := accept_turn h.idle haccept
    obtain ⟨hparams, -, -⟩ := hturn.grows
    obtain ⟨hsynced, hquiet, hptr⟩ := h.exec_board hreq hwf _ (hexec.symm.trans haccept) hparams hok
    exact ⟨⟨hturn.inv h.inv, hok.1, hparams ▸ h.masks, hparams ▸ h.commands, hsynced, hparams ▸ hquiet⟩, hptr⟩
  · cases hillegal.symm.trans haccept
    exact absurd hok (not_endedOk_turnedAway (by decide) s)

/-- A sequence ends with `OK` when its first operation does and the rest does. -/
theorem issueAll_cons_ok_iff {is : List Instr} : issueAll (i :: is) s = .finished .ok t ↔
    ∃ u, accept (encodeRequest i) s = .next u ∧ EndedOk u ∧ issueAll is u = .finished .ok t := by
  constructor
  · intro h
    unfold issueAll at h
    cases haccept : accept (encodeRequest i) s with
    | next u =>
      simp only [haccept] at h
      split at h
      · cases h
      · next hb =>
        split at h
        · next hlast => exact ⟨u, rfl, ⟨Bool.eq_false_iff.2 hb, hlast⟩, h⟩
        · next r hne hlast =>
          cases h
          exact absurd rfl hne
        · cases h
    | fault f => simp only [haccept] at h; cases h
    | refused r => simp only [haccept] at h; cases h
  · rintro ⟨u, haccept, ⟨hidle, hlast⟩, hrest⟩
    simp only [issueAll, haccept, hidle, hlast, hrest, Bool.false_eq_true, if_false]

/-- Whether an upload is pending a SET_CURSOR after an operation that answered `OK` (70_reset_and_hazards.md R350). -/
def uploadPending (pending : Bool) : Instr → Bool
  | .uploadCustomChar .. => true
  | .setCursor .. => false
  | _ => pending

theorem cgramSafe_cons {pending : Bool} {l : List (Instr × Response)} (h : cgramSafe pending ((i, .ok) :: l) = true) :
    cgramSafe (uploadPending pending i) l = true := by
  cases i
  case writeRaw code => exact (Bool.and_eq_true_iff.1 h).2
  all_goals exact h

theorem not_pending_of_writeRaw {pending : Bool} {code : Byte} {l : List (Instr × Response)}
    (h : cgramSafe pending ((.writeRaw code, .ok) :: l) = true) : pending = false := by
  simpa using (Bool.and_eq_true_iff.1 h).1

/-- While no upload is pending the pointer is in DDRAM. -/
theorem PointerKept.inDdram {pending : Bool} (h : PointerKept i s t) (hs : pending = false → InDdram s)
    (hp : uploadPending pending i = false) : InDdram t := by
  obtain ⟨hset, hkeep⟩ := h
  unfold uploadPending at hp
  split at hp
  · cases hp
  · exact hset _ _ rfl
  · next hno _ => exact hkeep hno (hs hp)

/-- A WRITE_RAW in a sequence that answers `OK` meets the pointer in DDRAM, by what `pending` says of the start of it. -/
theorem issueAll_before_writeRaw {pending : Bool} {before after : List Instr} {code : Byte} (h : Attended s)
    (hptr : pending = false → InDdram s) (hwf : ∀ i ∈ before, i.wf = true)
    (hduty : cgramSafe pending ((before ++ .writeRaw code :: after).map fun i => (i, .ok)) = true)
    (hissue : issueAll (before ++ .writeRaw code :: after) s = .finished .ok t) :
    ∃ u, issueAll before s = .finished .ok u ∧ InDdram u := by
  induction before generalizing s pending with
  | nil => exact ⟨s, rfl, hptr (not_pending_of_writeRaw hduty)⟩
  | cons i before ih =>
    obtain ⟨u, haccept, hok, hrest⟩ := issueAll_cons_ok_iff.1 hissue
    obtain ⟨hu, hkept⟩ := h.step (hwf i List.mem_cons_self) haccept hok
    obtain ⟨v, hv, hddram⟩ := ih hu (hkept.inDdram hptr) (fun j hj => hwf j (List.mem_cons_of_mem _ hj))
      (cgramSafe_cons hduty) hrest
    exact ⟨v, issueAll_cons_ok_iff.2 ⟨u, haccept, hok, hv⟩, hddram⟩

/-- Settles O58: by induction on the operations before the WRITE_RAW, with whether an upload is pending carried along. -/
theorem hostDutyKeepsTheGlyphs : Obligations.HostDutyKeepsTheGlyphs := by
  unfold Obligations.HostDutyKeepsTheGlyphs
  intro s t before code after a0 hinv hidle hm hstd hsynced hquiet hptr hwf hduty hissue
  have hs : Attended s := ⟨hinv, hidle, hm, hstd, hsynced, hquiet⟩
  obtain ⟨u, hu, a, ha⟩ := issueAll_before_writeRaw hs (fun _ => ⟨a0, hptr⟩) hwf hduty hissue
  exact ⟨u, a, hu, ha⟩

end Sys2Proof.Machine
end
